-- ==== Sys2Proof/Word.lean ====
section
/-! DEFINITION. The words of the part: bytes, link addresses, replay times, ring positions. -/

namespace Sys2Proof

/-- One byte of a structure in memory or of a link request (R204). -/
abbrev Byte := BitVec 8

/-- A link address (R158). -/
abbrev Addr := BitVec 40

/-- A replay time in µs (INTRO.CONVENTIONS). -/
abbrev Time := BitVec 48

/-- A ring position or another 32-bit count that wraps modulo 2^32 (INTRO.CONVENTIONS). -/
abbrev Pos := BitVec 32

/-- A 32-bit value of a point, a sequence number or a count. -/
abbrev Word32 := BitVec 32

/-- A logical or physical channel number, 0..63 (R22). -/
abbrev ChanNo := BitVec 6

/-- A point index as records, descriptors and entries carry it (FORMAT). -/
abbrev PointNo := BitVec 16

end Sys2Proof
end

