-- ==== Sys2Proof/Config.lean ====
section
/-! DEFINITION. What the part fixes (capacities and the control block map) and the values the spec leaves open. -/

namespace Sys2Proof.Config

/-- Held-read queue, R169. -/
def heldMax : Nat := 16
/-- Requests on the answer lists together, R159. -/
def answerMax : Nat := 64
/-- Own-write queue, R171. -/
def ownMax : Nat := 32
/-- Places of a head buffer, R30. -/
def headPlaces : Nat := 4
/-- Places of the stager, R60, R78. -/
def stagerPlaces : Nat := 512
/-- Entries of the dwell table, R63. -/
def dwellMax : Nat := 64
/-- Entries of the Override Table, R145. -/
def overrideMax : Nat := 256
/-- Places of the mark stack, R127. -/
def markMax : Nat := 8
/-- Notices the overflow buffer holds, R196. -/
def overflowMax : Nat := 48
/-- Total count at which informational notices stop joining the overflow buffer, R195. -/
def overflowInfoMax : Nat := 8
/-- The greatest replay time, 2^48 - 1 (R52). -/
def lastTime : Nat := 281474976710655

/-- Control block map, FORMAT.CB (offsets from the control block base). -/
def countersOff : Nat := 0x200
def ringOff : Nat := 0x800
def ringSize : Nat := 0x800
def tableOff : Nat := 0x1000
def tableSize : Nat := 0x800
def statusOff : Nat := 0x1800
def statusSize : Nat := 0x500
def cbSize : Nat := 0x2000

/-- FREE VALUE (log 17): the time a CHANNEL_DRAINED notice carries for a channel that has accepted no record; R48 and R207
name the last accepted corrected time, which is then unknown. Applied to a fresh counter. -/
opaque drainedTime : Nat → Time

/-- FREE VALUE (log 18): how a known time outside 0..2^48-1, which a skew transfer can make (R44), appears in a notice. -/
opaque shownTime : Int → Time

/-- FREE VALUE (log 18): how a safe time outside 0..2^48-1 appears in its 8-byte status field. -/
opaque shownSafe : Int → BitVec 64

/-- FREE VALUE (log 46): the 2 bytes of a release lead above 65,535, which R206 takes not to arise. -/
opaque shownLead : Nat → BitVec 16

/-- FREE VALUE (log 23): the time and channel a FROM_DWELL undo finds where the point has no last-change, which R134 does not
give; no run the spec describes reaches it. Applied to a fresh counter. -/
opaque undoTime : Nat → Time
opaque undoChan : Nat → ChanNo

end Sys2Proof.Config
end

