-- ==== Sys2Proof/Syntax.lean ====
section
/-! DEFINITION. The commands of the block: one constructor of `Instr` per row of spec/opcode_table.json. -/

namespace Sys2Proof

/-- What a link request asks (R158): a WRITE carries its data and one mask member per byte. -/
inductive ReqKind where
  | read
  | write (data : List Byte) (mask : List Bool)
  deriving DecidableEq, Repr

/-- A link request (R158). -/
structure Req where
  tag : BitVec 5
  addr : Addr
  len : Nat
  kind : ReqKind
  deriving DecidableEq, Repr

/-- What the memory side answers (R158, R174): it answers OK or MEMERR; REFUSED comes from the part alone. -/
inductive MemStatus where
  | ok
  | memerr
  deriving DecidableEq, Repr

/-- One constructor per row of spec/opcode_table.json, in the table's order. Requests and responses carry the link's fields; a
row of the part's own carries what the part is free to choose (the channel it serves, the tag of an own request). The
parameters of a command are read from the descriptor the part fetched (R178). -/
inductive Instr where
  | resetLine
  | pointRead (r : Req)
  | aliasRead (r : Req)
  | windowWrite (r : Req)
  | aliasWrite (r : Req)
  | partOwnedWrite (r : Req)
  | passRequest (r : Req)
  | ringSlotWrite
  | fillCountWrite
  | closedFlagWrite
  | consumedCountWrite
  | ownerWordWrite
  | memorySideTake (ownTag : BitVec 5)
  | ownQueueEnqueue
  | memoryResponse (tag : BitVec 5) (status : MemStatus) (data : List Byte)
  | processorResponse (tag : BitVec 5)
  | fetchIssue (phys : ChanNo)
  | recordLoad (phys : ChanNo)
  | fetchDiscardedReturn
  | journalEntryWritten
  | journalWrap
  | starvationExpiry
  | paceAdvance
  | groupAdmit
  | formationPull
  | filterWordRead
  | commitBegin
  | commitItem
  | commitBoundary
  | ownAccessError
  | commitRestored
  | undoStepBegin
  | undoEntry
  | undoStepBoundary
  | undoStepRestored
  | configure
  | configureValidation
  | regionMapChange
  | imagePassWord
  | unconfigure
  | unconfigureEffect
  | run
  | step
  | stop
  | setPace
  | setStopTime
  | setStopCount
  | setSkew
  | setChannel
  | mark
  | dropMark
  | rewind
  | stepBack
  | rewindStart
  | watchSet
  | watchClear
  | setPresentation
  | holdCapture
  | setDwell
  | setOverridePolicy
  | releaseOverride
  | queryPoint
  | commandWaitEnd
  | resetRelease
  | descriptorRejected
  deriving DecidableEq, Repr

end Sys2Proof
end

