-- ==== Sys2Proof/WellFormed.lean ====
section
/-! DEFINITION. Which commands the link protocol allows (R158): the form of requests and responses. -/

namespace Sys2Proof

/-- R158: the address is 8-byte aligned. -/
def Req.aligned (r : Req) : Bool := r.addr.toNat % 8 == 0

/-- R158: a length of 8 to 64 bytes in multiples of 8. -/
def Req.lengthOk (r : Req) : Bool := r.len % 8 == 0 && 8 ≤ r.len && r.len ≤ 64

/-- R158: a request never crosses a 64-byte line. -/
def Req.inLine (r : Req) : Bool := r.addr.toNat % 64 + r.len ≤ 64

/-- R158: write data for the length, and one mask member for each byte. -/
def Req.dataOk (r : Req) : Bool :=
  match r.kind with
  | .read => true
  | .write d m => d.length == r.len && m.length == r.len

/-- R158: a request the link protocol allows. -/
def Req.wf (r : Req) : Bool := r.aligned && r.lengthOk && r.inLine && r.dataOk

def Req.isRead (r : Req) : Bool :=
  match r.kind with
  | .read => true
  | .write _ _ => false

/-- A command whose operands the link protocol allows, with the kind of request its row names. -/
def Instr.wf : Instr → Bool
  | .pointRead r => r.wf && r.isRead
  | .aliasRead r => r.wf && r.isRead
  | .windowWrite r => r.wf && !r.isRead
  | .aliasWrite r => r.wf && !r.isRead
  | .partOwnedWrite r => r.wf && !r.isRead
  | .passRequest r => r.wf
  | .memoryResponse _ _ d => d.length % 8 == 0 && d.length ≤ 64
  | .resetLine => true
  | .ringSlotWrite => true
  | .fillCountWrite => true
  | .closedFlagWrite => true
  | .consumedCountWrite => true
  | .ownerWordWrite => true
  | .memorySideTake _ => true
  | .ownQueueEnqueue => true
  | .processorResponse _ => true
  | .fetchIssue _ => true
  | .recordLoad _ => true
  | .fetchDiscardedReturn => true
  | .journalEntryWritten => true
  | .journalWrap => true
  | .starvationExpiry => true
  | .paceAdvance => true
  | .groupAdmit => true
  | .formationPull => true
  | .filterWordRead => true
  | .commitBegin => true
  | .commitItem => true
  | .commitBoundary => true
  | .ownAccessError => true
  | .commitRestored => true
  | .undoStepBegin => true
  | .undoEntry => true
  | .undoStepBoundary => true
  | .undoStepRestored => true
  | .configure => true
  | .configureValidation => true
  | .regionMapChange => true
  | .imagePassWord => true
  | .unconfigure => true
  | .unconfigureEffect => true
  | .run => true
  | .step => true
  | .stop => true
  | .setPace => true
  | .setStopTime => true
  | .setStopCount => true
  | .setSkew => true
  | .setChannel => true
  | .mark => true
  | .dropMark => true
  | .rewind => true
  | .stepBack => true
  | .rewindStart => true
  | .watchSet => true
  | .watchClear => true
  | .setPresentation => true
  | .holdCapture => true
  | .setDwell => true
  | .setOverridePolicy => true
  | .releaseOverride => true
  | .queryPoint => true
  | .commandWaitEnd => true
  | .resetRelease => true
  | .descriptorRejected => true

end Sys2Proof
end

