-- ==== Sys2Proof/Decode.lean ====
section
/-! DEFINITION. The command a word of the table spells. No row of spec/opcode_table.json gives bits (every "fields" is empty and
no row has "fixed"), so no word spells a command. -/

namespace Sys2Proof

/-- The command that a word spells by the table's bits: the table gives none. -/
def decodeTableWord (_nbits _w : Nat) : Option Instr := none

end Sys2Proof
end

