-- ==== Sys2Proof/Machine/State.lean ====
section
/-! DEFINITION. The state of the DH-420, block by block (INTRO.BLOCKS), its reset values, and how a step can stop. -/

namespace Sys2Proof.Machine

/-! ## Names -/

/-- Point kind, R1. -/
inductive PKind where
  | status
  | analog
  deriving DecidableEq, Repr

/-- Override policy, R17, R151. -/
inductive Policy where
  | pin
  | once
  deriving DecidableEq, Repr

/-- Late policy of a channel, R26. -/
inductive LatePolicy where
  | drop
  | apply
  deriving DecidableEq, Repr

/-- Image mode of a configuration, R20. -/
inductive ImageMode where
  | keep
  | clear
  deriving DecidableEq, Repr

/-- Run mode, R105. -/
inductive RunMode where
  | paced
  | free
  deriving DecidableEq, Repr

/-- Record kinds, R39. -/
inductive RecKind where
  | status
  | analog
  | marker
  | alive
  deriving DecidableEq, Repr

/-- Reject reasons, R35. -/
inductive Reason where
  | check
  | order
  | range
  | kind
  | point
  | memory
  deriving DecidableEq, Repr

/-- Channel states, R46. A channel without a context is DISABLED. -/
inductive ChanState where
  | fetching
  | primed
  | empty
  | lagging
  | drained
  deriving DecidableEq, Repr

/-- Lane states, R99. -/
inductive LaneState where
  | unconfigured
  | configuring
  | stopped
  | running
  | stepping
  | holding
  | rewinding
  | faulted
  deriving DecidableEq, Repr

/-- Hold reasons, R100. -/
inductive HoldReason where
  | watch
  | stopTime
  | stopCount
  | noticeFull
  | anchorStarved
  deriving DecidableEq, Repr

/-- First fault codes, R120. -/
inductive FaultCode where
  | none
  | imageRead
  | imageWrite
  | journalWrite
  | journalRead
  | noticeWrite
  | statusWrite
  deriving DecidableEq, Repr

/-- Group kinds, R89. -/
inductive GroupKind where
  | timed
  | split
  | late
  deriving DecidableEq, Repr

/-- Outcomes of a rewind, R139 to R141. -/
inductive RewindOutcome where
  | complete
  | cutShort
  | faulted
  deriving DecidableEq, Repr

/-- Notice classes, R194. -/
inductive NClass where
  | lane
  | watch
  | channel
  | record
  | override
  | guarding
  deriving DecidableEq, Repr

/-! ## Words and entries -/

/-- The point word, FORMAT.WORD. -/
structure PointWord where
  value : Word32
  quality : BitVec 8
  count : BitVec 8
  source : BitVec 8
  phase : BitVec 8
  deriving DecidableEq, Repr

/-- The selector of a point; the hold value and quality exist while it is HOLD (R12, R13). -/
inductive Selector where
  | live
  | hold (value : Word32) (quality : BitVec 8)
  | lastGood
  | blank
  deriving DecidableEq, Repr

/-- The last-change of a point, R15. -/
structure LastChange where
  time : Time
  value : Word32
  chan : ChanNo
  deriving DecidableEq, Repr

/-- An entry of the Point Directory, R12. -/
structure DirEntry where
  kind : PKind
  sel : Selector
  lastGood : Option Word32
  lastChange : Option LastChange
  dwell : BitVec 2
  policy : Policy
  deriving DecidableEq, Repr

/-- An entry of the Override Table, R145. -/
structure OvrEntry where
  point : PointNo
  value : Word32
  quality : BitVec 8
  policy : Policy
  originR : Time
  originGroup : Word32
  deriving DecidableEq, Repr

/-- A held status change: the contents of a dwell entry but its release time (R63, R78). -/
structure HeldItem where
  value : Word32
  quality : BitVec 8
  time : Time
  chan : ChanNo
  pos : Pos
  deriving DecidableEq, Repr

/-- An entry of the dwell table, R63. -/
structure DwellEntry where
  point : PointNo
  item : HeldItem
  release : Time
  deriving DecidableEq, Repr

/-- A checked history record in a head buffer, R30, R35. -/
structure Rec where
  pos : Pos
  ts : Time
  ct : Time
  kind : RecKind
  point : PointNo
  quality : BitVec 8
  value : Word32
  arch : BitVec 64
  deriving DecidableEq, Repr

/-- What a stager item is, R78. -/
inductive ItemBody where
  | record (point : PointNo) (value : Word32) (quality : BitVec 8) (arch : BitVec 64) (unfiltered : Bool)
  | marker (point : PointNo) (value : Word32) (arch : BitVec 64)
  | release (point : PointNo) (value : Word32) (quality : BitVec 8)
  | chatter (point : PointNo) (held : HeldItem) (release : Time)
  deriving DecidableEq, Repr

/-- A stager item, R78: its corrected time, channel and position, its key time and its late mark. -/
structure Item where
  body : ItemBody
  time : Time
  chan : ChanNo
  pos : Pos
  keyTime : Time
  late : Bool
  deriving DecidableEq, Repr

/-- A journal entry, R124, FORMAT.JOURNAL. -/
inductive JEntry where
  | applied (ch : ChanNo) (pos : Pos) (point : PointNo) (late unfiltered fromDwell : Bool)
      (oldChange : Option (Time × ChanNo)) (oldGood : Option Word32) (oldWord : PointWord) (lead : BitVec 16)
  | duplicate (ch : ChanNo) (pos : Pos) (point : PointNo) (oldWord : PointWord)
  | held (ch : ChanNo) (pos : Pos) (point : PointNo) (value : Word32) (quality : BitVec 8) (time : Time)
  | chatter (ch : ChanNo) (pos : Pos) (point : PointNo) (oldWord : PointWord) (item : HeldItem) (lead : BitVec 16)
  | superseded (ch : ChanNo) (pos : Pos) (point : PointNo) (item : HeldItem)
  | dropped (ch : ChanNo) (pos : Pos) (point : PointNo) (time : Time)
  | rejected (ch : ChanNo) (pos : Pos) (point : PointNo) (reason : Reason)
  | noPoint (ch : ChanNo) (pos : Pos)
  | marker (ch : ChanNo) (pos : Pos)
  | groupEnd (num : Word32) (kind : GroupKind) (time prevR prevF : Time) (count : BitVec 16)
  | skew (set : BitVec 4) (old new : Word32)
  deriving DecidableEq, Repr

/-- What a notice says beside its common fields, R207. -/
inductive NBody where
  | configured (start : Time) (p s : BitVec 16) (e : BitVec 8)
  | stopTime (c stop tg : Time)
  | stopCount (c : Time)
  | stepDone (n : BitVec 16) (c : Time)
  | hold (reason : HoldReason) (c : Time)
  | endOfHistory (f c : Time)
  | rewindEnded (outcome : RewindOutcome) (back : Bool) (groups : BitVec 24) (marks : BitVec 8) (f c : Time)
  | markLost (push : Bool) (r : Time) (group : Word32) (pos : Pos)
  | fault (code : FaultCode) (addr : Addr)
  | watchHit (slot : BitVec 5) (count : BitVec 16) (value : Word32)
  | lagging (t : Time)
  | rejoined (bySet : Bool) (t : Time)
  | drained (t : Time)
  | seqBreak (expected found : Word32)
  | rejected (reason : Reason)
  | lateRecord (full : Bool) (t : Time)
  | marker (value : Word32)
  | groupSplit (tg : Time) (n : BitVec 16)
  | dwellFull
  | overrideFull (needed free : BitVec 16)
  | overrideEnded (value : Word32) (originR : Time) (originGroup : Word32)
  | ringGuard (addr : Addr) (retain fill : Pos)
  | fillInvalid (closed : Bool) (value : Word32)
  deriving DecidableEq, Repr

/-- A notice with every field fixed (R193): time field, group number, point, physical and logical channel, archive reference
and the kind's own values. -/
structure Notice where
  time : Time
  group : Word32
  point : Option PointNo
  chan : Option (ChanNo × ChanNo)
  arch : Option (BitVec 64)
  body : NBody
  deriving DecidableEq, Repr

/-! ## Memory path -/

/-- The class a forwarded request was taken under (PATH.CLASSIFY): window reads are merged (point), unmerged (alias), or
released unmerged by an abandoned CONFIGURING (raw, R170); guarded and snooped writes are judged at the head. -/
inductive FClass where
  | pass
  | point
  | aliasWin
  | raw
  | guarded
  | snooped
  deriving DecidableEq, Repr

/-- A request in the forward stream or the held-read queue, with the address it is issued at (R5, R164, R169). -/
structure Fwd where
  id : Nat
  req : Req
  cls : FClass
  deriving DecidableEq, Repr

/-- Response statuses, R158. -/
inductive Status where
  | ok
  | refused
  | memerr
  deriving DecidableEq, Repr

/-- A response on the processor side, R158. -/
structure Resp where
  tag : BitVec 5
  status : Status
  data : List Byte
  deriving DecidableEq, Repr

/-- A request on an answer list (R159): `win` marks a read of the point or alias window. -/
structure Answer where
  id : Nat
  tag : BitVec 5
  win : Bool
  resp : Option Resp
  deriving DecidableEq, Repr

/-- Why the part issued an own request (R171). `dropped` marks a read whose block no longer waits for it. -/
inductive Origin where
  | fetch (phys : ChanNo)
  | filterRead
  | commitRead
  | commitWrite
  | restoreWrite
  | undoWrite
  | undoWordRead
  | journalGroup
  | journalLoose (phys : ChanNo) (tok : Nat)
  | journalSkew
  | oldestRead
  | entryRead
  | descRead
  | recordRead (line : Nat)
  | tableRead (phys : ChanNo)
  | holdRead
  | resultWrite
  | ownerWrite
  | imgRead
  | imgWrite
  | noticeWrite
  | statusWrite
  | dropped
  deriving DecidableEq, Repr

/-- An own request (R171). -/
structure OwnReq where
  serial : Nat
  origin : Origin
  addr : Addr
  len : Nat
  kind : ReqKind
  deriving DecidableEq, Repr

/-- An issued request that is not yet answered (R160). -/
inductive Issued where
  | fwd (f : Fwd)
  | own (o : OwnReq)
  deriving DecidableEq, Repr

/-- An entry of an outstanding list, R160. -/
structure Outst where
  tag : BitVec 5
  what : Issued
  deriving DecidableEq, Repr

/-- The answer to an own request, with its block and not yet acted on (R160, R174). -/
structure Ret where
  req : OwnReq
  status : MemStatus
  data : List Byte
  deriving DecidableEq, Repr

/-- The two contenders of the arbiter, R173. -/
inductive Side where
  | fwd
  | own
  deriving DecidableEq, Repr

/-- Memory path state, R159 to R173. -/
structure Path where
  answers : List Answer
  fwd : List Fwd
  headNote : List Nat
  held : List Fwd
  ownQ : List OwnReq
  waiting : List OwnReq
  outst : List Outst
  returns : List Ret
  offer : Option Side
  pass : Nat
  nextId : Nat
  nextOwn : Nat
  procOut : Option Resp
  deriving DecidableEq, Repr

/-- The regions the configuration record names (R161, R183). The channel rings are fields of the channel contexts. -/
structure Regions where
  pwBase : Nat
  awBase : Nat
  points : Nat
  statusPoints : Nat
  jBase : Nat
  jExp : Nat
  nBase : Nat
  nExp : Nat
  deriving DecidableEq, Repr

/-! ## Channel Front -/

/-- A place of a head buffer that is not free (R30). -/
inductive Place where
  | inflight (serial : Nat) (pos : Pos)
  | checked (r : Rec)
  deriving DecidableEq, Repr

/-- The context of an enabled channel (CHAN). -/
structure Chan where
  phys : ChanNo
  base : Nat
  k : Nat
  start : Pos
  skewSet : BitVec 4
  late : LatePolicy
  anchor : Bool
  pendSet : Option (LatePolicy × Bool)
  closed : Bool
  retain : Pos
  cursor : Pos
  fetch : Pos
  fill : Pos
  heads : List Place
  unj : List (Nat × Pos)
  lastTs : Option Time
  lastCt : Option Int
  floor : Time
  expSeq : Option Word32
  rejected : Word32
  lateCount : Word32
  lagging : Bool
  st : ChanState
  deriving DecidableEq, Repr

/-- A discarded fetch whose data has not returned (R34), with the channel whose place it keeps, if that still exists. -/
structure Discard where
  serial : Nat
  chan : Option ChanNo
  deriving DecidableEq, Repr

/-- Channel Front: the enabled channels in logical order, the skew-set offsets, the discarded fetches. -/
structure Front where
  chans : List Chan
  offsets : List Word32
  discarded : List Discard
  deriving DecidableEq, Repr

/-! ## Merge Unit, stager, Commit Unit -/

/-- A chatter-filter decision that waits for an own read of the point's word: a standing value (R64), or the old word of a
loose DUPLICATE (R68); `cls` is the point's dwell class as the item reached the filter (R16). -/
structure FilterOp where
  serial : Nat
  chan : ChanNo
  cls : BitVec 2
  repeats : Bool
  deriving DecidableEq, Repr

/-- Merge Unit, R51 to R77. -/
structure Merge where
  dwell : List DwellEntry
  starve : Nat
  limit : Nat
  quantum : Nat
  window : Nat
  start : Time
  filter : Option FilterOp
  ended : Bool
  deriving DecidableEq, Repr

/-- Group Stager, R78: the items of the group in flight and those of the waiting late group. -/
structure Stager where
  cur : List Item
  late : List Item
  deriving DecidableEq, Repr

/-- One write of a commit's or undo step's list of writes (R82, R133). -/
structure WriteRec where
  point : PointNo
  oldWord : PointWord
  newWord : PointWord
  oldChange : Option LastChange
  oldGood : Option Word32
  deriving DecidableEq, Repr

/-- What a watch slot matched in the group being committed, R94. -/
structure Hit where
  count : Nat
  time : Time
  value : Word32
  chan : ChanNo
  arch : Option (BitVec 64)
  deriving DecidableEq, Repr

/-- How far the group in flight has come: forming (R56), announced to the Presentation Stage (R80), committing, all entries
handed in (R89), or being restored (R96). -/
inductive FlightPhase where
  | forming
  | announced
  | committing
  | ended
  | restoring
  deriving DecidableEq, Repr

/-- The group in flight, from its admission to its boundary (R55). -/
structure Flight where
  late : Bool
  split : Bool
  tg : Time
  phase : FlightPhase
  done : Nat
  reading : Option Nat
  writes : List WriteRec
  hits : List (Option Hit)
  deriving DecidableEq, Repr

/-- Watch conditions with their operands, R93. -/
inductive WatchCond where
  | anyChange
  | equals (v : Word32)
  | qualitySet (q : BitVec 8)
  deriving DecidableEq, Repr

/-- A watch slot in use, R93. -/
structure Watch where
  point : PointNo
  cond : WatchCond
  halt : Bool
  deriving DecidableEq, Repr

/-- Commit Unit, R80, R93. -/
structure Commit where
  flag : Bool
  fly : Option Flight
  watches : List (Option Watch)
  deriving DecidableEq, Repr

/-! ## Timeline Controller -/

/-- The hold-reason set, R100. -/
structure Holds where
  watch : Bool
  stopTime : Bool
  stopCount : Bool
  noticeFull : Bool
  anchorStarved : Bool
  deriving DecidableEq, Repr

/-- The mode the lane returns to after a hold (R100): RUNNING with `runMode`, or STEPPING with `steps`. -/
inductive Resume where
  | running
  | stepping
  deriving DecidableEq, Repr

/-- The pending-settings buffer, R115. -/
structure Pend where
  pace : Option Nat
  stopTime : Option (Option Time)
  stopCount : Option (Word32 × Word32)
  skew : List (Option Word32)
  deriving DecidableEq, Repr

/-- Timeline Controller, R99 to R122. -/
structure Timeline where
  lane : LaneState
  resume : Resume
  runMode : RunMode
  holds : Holds
  c : Time
  r : Time
  f : Time
  group : Word32
  pace : Nat
  acc : Nat
  stopTime : Option Time
  stopCount : Word32
  reload : Word32
  steps : Nat
  stepped : Nat
  pend : Pend
  fault : FaultCode
  faultAddr : Addr
  deriving DecidableEq, Repr

/-! ## Journal and Rewind Engine -/

/-- A mark, R127. -/
structure Mark where
  pos : Pos
  r : Time
  f : Time
  c : Time
  group : Word32
  deriving DecidableEq, Repr

/-- Who handed an entry in: a commit, a record consumed outside a group (with its channel and token), or a skew transfer. -/
inductive JSrc where
  | group
  | loose (phys : ChanNo) (tok : Nat)
  | skew
  deriving DecidableEq, Repr

/-- An entry handed to the journal and not yet placed (R125, R131). -/
structure Handed where
  entry : JEntry
  src : JSrc
  deriving DecidableEq, Repr

/-- Where a walk stands: between steps, announced, undoing, every entry of the step undone, or restoring (R132, R141). -/
inductive WalkPhase where
  | between
  | announced
  | undoing
  | stepDone
  | restoring
  deriving DecidableEq, Repr

/-- The clock values at a step's start (R141). -/
structure Clock where
  r : Time
  f : Time
  c : Time
  group : Word32
  deriving DecidableEq, Repr

/-- A rewind in flight, R129 to R141. -/
structure Walk where
  back : Bool
  endPos : Pos
  targetC : Option Time
  toRemove : Nat
  groups : Nat
  removed : Nat
  stop : Bool
  phase : WalkPhase
  undone : Nat
  groupStep : Bool
  reading : Option Nat
  cur : Option JEntry
  writes : List WriteRec
  snap : Clock
  deriving DecidableEq, Repr

/-- Journal and Rewind Engine, R123 to R144. `geps` (model) lists the positions of the held GROUP_END entries, oldest first. -/
structure Journal where
  head : Pos
  oldest : Pos
  wrapped : Bool
  wholeSpan : Bool
  geCount : Nat
  geps : List Pos
  marks : List Mark
  inq : List Handed
  wrapRead : Option Nat
  walk : Option Walk
  nextTok : Nat
  deriving DecidableEq, Repr

/-! ## Command Processor -/

/-- The configuration record as read, FORMAT.CONFIG. Codes are kept as read until validation has passed. -/
structure CfgRec where
  pwBase : Nat
  awBase : Nat
  points : Nat
  statusPoints : Nat
  jExp : Nat
  nExp : Nat
  imageMode : Nat
  policy : Nat
  jBase : Nat
  nBase : Nat
  start : Nat
  quantum : Nat
  window : Nat
  limit : Nat
  mask : BitVec 4
  lineEn : Bool
  enable : BitVec 64
  skews : List Word32
  deriving DecidableEq, Repr

/-- A channel table entry as read, FORMAT.CHANNEL. -/
structure ChanEnt where
  base : Nat
  k : Nat
  skewSet : Nat
  late : Nat
  anchor : Bool
  start : Pos
  fill : Pos
  closed : Bool
  deriving DecidableEq, Repr

/-- A validated configuration: the record and the entries of the enabled channels in ascending physical order. -/
structure Cfg where
  record : CfgRec
  ents : List (ChanNo × ChanEnt)
  deriving DecidableEq, Repr

/-- A command that waits, with its parameters (R181). -/
inductive WaitCmd where
  | stop
  | mark
  | configure
  | unconfigure
  | watchSet (slot : BitVec 5) (w : Watch)
  | watchClear (slot : BitVec 5)
  | hold (first count : Nat)
  | query (point : PointNo)
  deriving DecidableEq, Repr

/-- What the Command Processor is doing with slot N. In `idle` and `draining` no slot is being processed: `draining` is an
UNCONFIGURE whose result is written and whose effect waits for the own-write queue (R186). -/
inductive CmdPhase where
  | idle
  | reading
  | fetched (desc : Option (List Byte))
  | waiting (w : WaitCmd)
  | capturing (first count : Nat) (after : List Nat)
  | starting (w : Walk)
  | validating (recs : List (Nat × Option (List Byte))) (ents : List (ChanNo × Option (List Byte))) (todo : Nat)
  | mapChange (c : Cfg)
  | draining
  deriving DecidableEq, Repr

/-- Command Processor, R176 to R181. -/
structure CmdProc where
  n : BitVec 5
  pend : List (BitVec 5)
  phase : CmdPhase
  deriving DecidableEq, Repr

/-- The CONFIGURING pass, R20. -/
structure ImgPass where
  point : Nat
  mode : ImageMode
  cleaning : Bool
  deriving DecidableEq, Repr

/-- Notice Unit, R193 to R203. `status` holds the 20 status block lines as last generated; `due` marks a rewrite that the
event in hand has asked for. -/
structure NoticeUnit where
  produced : Word32
  consumed : Word32
  discarded : Word32
  overflow : List Notice
  mask : BitVec 4
  lineEn : Bool
  works : Bool
  status : List (Option (List Byte))
  due : Bool
  deriving DecidableEq, Repr

/-! ## The machine -/

/-- The state of the part, the queue of events that are waiting, and its pins. -/
structure State where
  pending : List Instr
  resetAsserted : Bool
  cbStraps : BitVec 27
  wallUs : Nat
  freeIdx : Nat
  path : Path
  regions : Option Regions
  dir : List DirEntry
  ovr : List OvrEntry
  front : Front
  merge : Merge
  stager : Stager
  commit : Commit
  lane : Timeline
  jrn : Journal
  cmd : CmdProc
  ntc : NoticeUnit
  img : Option ImgPass
  deriving DecidableEq, Repr

/-- How a step can stop with a fault. -/
inductive Fault where
  /-- Raised by the commands that take a processor-side request and by MEMORY_RESPONSE, where the request or response is one
  the link protocol (R158) does not allow, or is not of the kind its row names. SAFE: the spec gives it no effect. -/
  | linkViolation
  deriving DecidableEq, Repr

/-- How a step can be refused. -/
inductive Refusal where
  /-- Raised by an arm of `exec` whose row has no meaning yet. SAFE. No arm raises it. -/
  | notModelled (mnemonic : String)
  deriving DecidableEq, Repr

/-! ## Reset values (RESET line) -/

/-- R175. -/
def Path.reset : Path :=
  { answers := [], fwd := [], headNote := [], held := [], ownQ := [], waiting := [], outst := [], returns := [],
    offer := none, pass := 0, nextId := 0, nextOwn := 0, procOut := none }

/-- R50. -/
def Front.reset : Front := { chans := [], offsets := List.replicate 16 0, discarded := [] }

/-- R77. The spec gives no value to the starvation limit (no limit), Q, W and the start time: they are held as 0, for the limit the value
with which the timer does not expire (R74) (DESIGN CHOICE, unsafe, log 35). -/
def Merge.reset : Merge :=
  { dwell := [], starve := 0, limit := 0, quantum := 0, window := 0, start := 0, filter := none, ended := false }

/-- R79. -/
def Stager.reset : Stager := { cur := [], late := [] }

/-- R98. -/
def Commit.reset : Commit := { flag := false, fly := none, watches := List.replicate 32 none }

/-- The empty hold-reason set, R100. -/
def Holds.none : Holds :=
  { watch := false, stopTime := false, stopCount := false, noticeFull := false, anchorStarved := false }

/-- The empty pending-settings buffer, R115. -/
def Pend.empty : Pend := { pace := none, stopTime := none, stopCount := none, skew := List.replicate 16 none }

/-- R122. -/
def Timeline.reset : Timeline :=
  { lane := .unconfigured, resume := .running, runMode := .paced, holds := Holds.none, c := 0, r := 0, f := 0, group := 0,
    pace := 1024, acc := 0, stopTime := none, stopCount := 0, reload := 0, steps := 0, stepped := 0, pend := Pend.empty,
    fault := .none, faultAddr := 0 }

/-- R144. -/
def Journal.reset : Journal :=
  { head := 0, oldest := 0, wrapped := false, wholeSpan := false, geCount := 0, geps := [], marks := [], inq := [],
    wrapRead := none, walk := none, nextTok := 0 }

/-- R176. -/
def CmdProc.reset : CmdProc := { n := 0, pend := [], phase := .idle }

/-- R203. -/
def NoticeUnit.reset : NoticeUnit :=
  { produced := 0, consumed := 0, discarded := 0, overflow := [], mask := 0, lineEn := false, works := false,
    status := List.replicate 20 none, due := false }

/-- The part right after the RESET line has been released (log 6). -/
def State.reset : State :=
  { pending := [], resetAsserted := false, cbStraps := 0, wallUs := 0, freeIdx := 0, path := Path.reset, regions := none,
    dir := [], ovr := [], front := Front.reset, merge := Merge.reset, stager := Stager.reset, commit := Commit.reset,
    lane := Timeline.reset, jrn := Journal.reset, cmd := CmdProc.reset, ntc := NoticeUnit.reset, img := none }

end Sys2Proof.Machine
end

