-- ==== Sys2Proof/Machine/Operands.lean ====
section
/-! DEFINITION. The byte layouts of Memory Formats (11): point words, history records, descriptors, the configuration record,
channel table entries, journal entries and notice records. -/

namespace Sys2Proof.Machine

/-! ## Bytes (R204) -/

/-- The `n` lowest bytes of `v`, least significant first (R204). -/
def leBytes : Nat → Nat → List Byte
  | 0, _ => []
  | n + 1, v => BitVec.ofNat 8 v :: leBytes n (v / 256)

/-- The number a run of bytes holds, least significant first (R204). -/
def leNat : List Byte → Nat
  | [] => 0
  | b :: bs => b.toNat + 256 * leNat bs

/-- The number in the `n` bytes at offset `off` of a structure. -/
def field (bs : List Byte) (off n : Nat) : Nat := leNat ((bs.drop off).take n)

/-- A run of bytes cut or filled with 0 to `n` bytes. -/
def padTo (n : Nat) (bs : List Byte) : List Byte := (bs ++ List.replicate n 0).take n

/-- The bytes of a time field (R204). -/
def timeBytes (t : Time) : List Byte := leBytes 6 t.toNat

/-- The 16-bit words of a block, R205. -/
def words16 : List Byte → List Nat
  | a :: b :: rest => (a.toNat + 256 * b.toNat) :: words16 rest
  | _ => []

/-- Ones'-complement addition of 16-bit words: the carry out of bit 15 goes back into bit 0 (R205). -/
def onesAdd (a b : Nat) : Nat := if a + b < 65536 then a + b else a + b - 65535

/-- The ones'-complement sum of a block, R36, R205. -/
def onesSum (bs : List Byte) : Nat := (words16 bs).foldl onesAdd 0

/-! ## Quality flags (FORMAT.WORD, IMAGE.QUALITY) -/

def qInvalid : BitVec 8 := 0x01
def qSuspect : BitVec 8 := 0x02
def qLate : BitVec 8 := 0x04
def qUnfiltered : BitVec 8 := 0x08
def qCorroborated : BitVec 8 := 0x10
def qChatter : BitVec 8 := 0x20
def qOverridden : BitVec 8 := 0x40
def qPresented : BitVec 8 := 0x80

/-- The six flags stored in DRAM (R11). -/
def qStored : BitVec 8 := 0x3F

/-- Neither INVALID nor SUSPECT (R14). -/
def clean (q : BitVec 8) : Bool := q &&& (qInvalid ||| qSuspect) == 0

/-! ## Point word (FORMAT.WORD) -/

def PKind.bit : PKind → BitVec 8
  | .status => 0x00
  | .analog => 0x80

/-- The source field: bits 0..5 the logical channel, bit 7 the kind (R9). -/
def sourceOf (ch : ChanNo) (k : PKind) : BitVec 8 := ch.setWidth 8 ||| k.bit

def PointWord.toBytes (w : PointWord) : List Byte :=
  leBytes 4 w.value.toNat ++ [w.quality, w.count, w.source, w.phase]

def PointWord.ofBytes (bs : List Byte) : PointWord :=
  { value := BitVec.ofNat 32 (field bs 0 4), quality := BitVec.ofNat 8 (field bs 4 1), count := BitVec.ofNat 8 (field bs 5 1),
    source := BitVec.ofNat 8 (field bs 6 1), phase := BitVec.ofNat 8 (field bs 7 1) }

/-- A point word as an own read takes it: bit 6 of the source, which software may have left set, is not read and so is written 0
with the part's next write of the word (FORMAT.WORD, log 42). -/
def PointWord.read (bs : List Byte) : PointWord :=
  let w := PointWord.ofBytes bs
  { w with source := w.source &&& 0xBF }

/-! ## History record (FORMAT.RECORD) -/

/-- A history record as read, before its checks (R35). -/
def rawTimestamp (bs : List Byte) : Nat := field bs 0 8
def rawPoint (bs : List Byte) : PointNo := BitVec.ofNat 16 (field bs 8 2)
def rawKind (bs : List Byte) : Option RecKind :=
  match field bs 10 1 with
  | 1 => some .status
  | 2 => some .analog
  | 3 => some .marker
  | 4 => some .alive
  | _ => none
/-- The record quality: bits 0 and 1; other bits are not read. -/
def rawQuality (bs : List Byte) : BitVec 8 := BitVec.ofNat 8 (field bs 11 1) &&& (qInvalid ||| qSuspect)
def rawValue (bs : List Byte) : Word32 := BitVec.ofNat 32 (field bs 12 4)
def rawSequence (bs : List Byte) : Word32 := BitVec.ofNat 32 (field bs 16 4)
def rawArchive (bs : List Byte) : BitVec 64 := BitVec.ofNat 64 (field bs 20 8)

/-! ## Codes (FORMAT.CODES) -/

def LaneState.code : LaneState → Nat
  | .unconfigured => 0
  | .configuring => 1
  | .stopped => 2
  | .running => 3
  | .stepping => 4
  | .holding => 5
  | .rewinding => 6
  | .faulted => 7

def Holds.bits (h : Holds) : Nat :=
  (if h.watch then 1 else 0) + (if h.stopTime then 2 else 0) + (if h.stopCount then 4 else 0) +
    (if h.noticeFull then 8 else 0) + (if h.anchorStarved then 16 else 0)

def FaultCode.code : FaultCode → Nat
  | .none => 0
  | .imageRead => 1
  | .imageWrite => 2
  | .journalWrite => 3
  | .journalRead => 4
  | .noticeWrite => 5
  | .statusWrite => 6

def ChanState.code : ChanState → Nat
  | .fetching => 1
  | .primed => 2
  | .empty => 3
  | .lagging => 4
  | .drained => 5

def Reason.code : Reason → Nat
  | .check => 1
  | .order => 2
  | .range => 3
  | .kind => 4
  | .point => 5
  | .memory => 6

def Reason.ofCode : Nat → Option Reason
  | 1 => some .check
  | 2 => some .order
  | 3 => some .range
  | 4 => some .kind
  | 5 => some .point
  | 6 => some .memory
  | _ => none

def GroupKind.code : GroupKind → Nat
  | .timed => 1
  | .split => 2
  | .late => 3

def GroupKind.ofCode : Nat → Option GroupKind
  | 1 => some .timed
  | 2 => some .split
  | 3 => some .late
  | _ => none

def Policy.code : Policy → Nat
  | .pin => 1
  | .once => 2

def Policy.ofCode : Nat → Option Policy
  | 1 => some .pin
  | 2 => some .once
  | _ => none

def LatePolicy.ofCode : Nat → Option LatePolicy
  | 1 => some .drop
  | 2 => some .apply
  | _ => none

def ImageMode.ofCode : Nat → Option ImageMode
  | 1 => some .keep
  | 2 => some .clear
  | _ => none

def RunMode.ofCode : Nat → Option RunMode
  | 1 => some .paced
  | 2 => some .free
  | _ => none

def Selector.code : Selector → Nat
  | .live => 1
  | .hold _ _ => 2
  | .lastGood => 3
  | .blank => 4

def HoldReason.bitNo : HoldReason → Nat
  | .watch => 0
  | .stopTime => 1
  | .stopCount => 2
  | .noticeFull => 3
  | .anchorStarved => 4

/-! ## Configuration record and channel table (FORMAT.CONFIG, FORMAT.CHANNEL) -/

/-- The configuration record from its first 128 bytes; bytes 0x080.. are not read. -/
def CfgRec.parse (bs : List Byte) : CfgRec :=
  { pwBase := field bs 0x00 8, awBase := field bs 0x08 8, points := field bs 0x10 2, statusPoints := field bs 0x12 2,
    jExp := field bs 0x14 1, nExp := field bs 0x15 1, imageMode := field bs 0x16 1, policy := field bs 0x17 1,
    jBase := field bs 0x18 8, nBase := field bs 0x20 8, start := field bs 0x28 8, quantum := field bs 0x30 2,
    window := field bs 0x32 2, limit := field bs 0x34 2, mask := BitVec.ofNat 4 (field bs 0x36 1),
    lineEn := field bs 0x37 1 % 2 == 1, enable := BitVec.ofNat 64 (field bs 0x38 8),
    skews := (List.range 16).map fun i => BitVec.ofNat 32 (field bs (0x40 + 4 * i) 4) }

def ChanEnt.parse (bs : List Byte) : ChanEnt :=
  { base := field bs 0x00 8, k := field bs 0x08 1, skewSet := field bs 0x09 1, late := field bs 0x0A 1,
    anchor := field bs 0x0B 1 % 2 == 1, start := BitVec.ofNat 32 (field bs 0x0C 4), fill := BitVec.ofNat 32 (field bs 0x10 4),
    closed := field bs 0x14 1 % 2 == 1 }

/-- The physical channels of an enable set, ascending (R22). -/
def enabledChans (e : BitVec 64) : List ChanNo :=
  ((List.range 64).filter fun i => e.getLsbD i).map (BitVec.ofNat 6)

/-! ## Command descriptor (FORMAT.DESCRIPTOR, R205) -/

/-- The block a descriptor's check word covers: bytes 0..47 with the owner counted as INTERPOSER (R205). -/
def descBlock (bs : List Byte) : List Byte := [1, 0, 0, 0] ++ (bs.take 48).drop 4

/-- R179, R205. -/
def descSumOk (bs : List Byte) : Bool := onesSum (descBlock bs) == 65535

def descCode (bs : List Byte) : Nat := field bs 6 1

/-- The result codes, FORMAT.DESCRIPTOR. -/
def resDone : Nat := 1
def resStarted : Nat := 2
def resRefusedState : Nat := 3
def resBadCheck : Nat := 4
def resBadParam : Nat := 5
def resOutOfRange : Nat := 6
def resNoticeFull : Nat := 7
def resUnknownCommand : Nat := 8

/-- The causes of a BAD_PARAM, FORMAT.DESCRIPTOR. -/
def causeValue : Nat := 1
def causeAlignment : Nat := 2
def causeBounds : Nat := 3
def causeOverlap : Nat := 4
def causeMemory : Nat := 5

/-- The result data of a BAD_PARAM: index, physical channel (0xFF where the field is of no channel entry), cause, region. -/
def badParamData (index chan cause region : Nat) : List Byte :=
  leBytes 1 index ++ leBytes 1 chan ++ leBytes 1 cause ++ leBytes 1 region

/-! ## Journal entry (FORMAT.JOURNAL, R206) -/

/-- A held value and quality in one byte: bits 0..1 value, bit 2 INVALID, bit 3 SUSPECT (R206). -/
def heldByte (v : Word32) (q : BitVec 8) : Byte := BitVec.ofNat 8 (v.toNat % 4 + 4 * (q.toNat % 4))

def heldValue (b : Nat) : Word32 := BitVec.ofNat 32 (b % 4)
def heldQuality (b : Nat) : BitVec 8 := BitVec.ofNat 8 (b / 4 % 4)

/-- The common header of an entry: kind, flags, logical channel, byte 3, ring position, point. -/
def jHeader (kind flags chan b3 : Nat) (pos : Pos) (point : PointNo) : List Byte :=
  leBytes 1 kind ++ leBytes 1 flags ++ leBytes 1 chan ++ leBytes 1 b3 ++ leBytes 4 pos.toNat ++ leBytes 2 point.toNat

def boolBit (b : Bool) (v : Nat) : Nat := if b then v else 0

/-- The point an entry of no point writes (R204). -/
def noPointNo : PointNo := 0xFFFF

/-- The 2 bytes of a release lead (R206). A record that rejoins below the forming group's time can supersede a change held in the same
formation, and make a lead that R206 does not foresee; one above 65,535 has no form in 2 bytes (log 46). -/
def leadField (n : Nat) : BitVec 16 := if n < 65536 then BitVec.ofNat 16 n else Config.shownLead n

/-- The 32 bytes of an entry. The bytes of an absent old last-change, old last-good or release lead are 0 (log 53). -/
def JEntry.encode : JEntry → List Byte
  | .applied ch pos pt late unf dw oc og ow lead =>
    jHeader 1 (boolBit late 1 + boolBit unf 2 + boolBit dw 4) ch.toNat (boolBit oc.isSome 1 + boolBit og.isSome 2) pos pt ++
      leBytes 6 (oc.elim 0 fun x => x.1.toNat) ++ ow.toBytes ++ leBytes 4 (og.elim 0 fun x => x.toNat) ++
      leBytes 2 lead.toNat ++ leBytes 1 (oc.elim 255 fun x => x.2.toNat) ++ leBytes 1 0
  | .duplicate ch pos pt ow => jHeader 2 0 ch.toNat 0 pos pt ++ leBytes 6 0 ++ ow.toBytes ++ leBytes 8 0
  | .held ch pos pt v q t => jHeader 3 0 ch.toNat 0 pos pt ++ leBytes 6 t.toNat ++ [heldByte v q] ++ leBytes 15 0
  | .chatter ch pos pt ow h lead =>
    jHeader 4 0 ch.toNat 0 pos pt ++ leBytes 6 h.time.toNat ++ ow.toBytes ++ [heldByte h.value h.quality] ++
      leBytes 1 h.chan.toNat ++ leBytes 4 h.pos.toNat ++ leBytes 2 lead.toNat
  | .superseded ch pos pt h =>
    jHeader 5 0 ch.toNat 0 pos pt ++ leBytes 6 h.time.toNat ++ [heldByte h.value h.quality] ++ leBytes 1 h.chan.toNat ++
      leBytes 4 h.pos.toNat ++ leBytes 10 0
  | .dropped ch pos pt t => jHeader 6 0 ch.toNat 0 pos pt ++ leBytes 6 t.toNat ++ leBytes 16 0
  | .rejected ch pos pt why => jHeader 7 why.code ch.toNat 0 pos pt ++ leBytes 22 0
  | .noPoint ch pos => jHeader 8 0 ch.toNat 0 pos noPointNo ++ leBytes 22 0
  | .marker ch pos => jHeader 9 0 ch.toNat 0 pos noPointNo ++ leBytes 22 0
  | .groupEnd num kind t r f n =>
    jHeader 10 kind.code 255 0 num n ++ leBytes 6 t.toNat ++ leBytes 6 r.toNat ++ leBytes 6 f.toNat ++ leBytes 4 0
  | .skew set old new =>
    jHeader 11 set.toNat 255 0 0 noPointNo ++ leBytes 4 old.toNat ++ leBytes 4 new.toNat ++ leBytes 14 0

/-- The held item of a CHATTER or SUPERSEDED entry. -/
def heldItemAt (bs : List Byte) (timeOff vqOff chOff posOff : Nat) : HeldItem :=
  { value := heldValue (field bs vqOff 1), quality := heldQuality (field bs vqOff 1), time := BitVec.ofNat 48 (field bs timeOff 6),
    chan := BitVec.ofNat 6 (field bs chOff 1), pos := BitVec.ofNat 32 (field bs posOff 4) }

/-- The entry 32 bytes hold; none where the kind, the reason or the group kind is no code of the format (log 22). -/
def JEntry.decode (bs : List Byte) : Option JEntry :=
  let ch : ChanNo := BitVec.ofNat 6 (field bs 2 1)
  let pos : Pos := BitVec.ofNat 32 (field bs 4 4)
  let pt : PointNo := BitVec.ofNat 16 (field bs 8 2)
  let fl := field bs 1 1
  let b3 := field bs 3 1
  let word := PointWord.ofBytes ((bs.drop 16).take 8)
  match field bs 0 1 with
  | 1 => some (.applied ch pos pt (fl % 2 == 1) (fl / 2 % 2 == 1) (fl / 4 % 2 == 1)
      (if b3 % 2 == 1 then some (BitVec.ofNat 48 (field bs 10 6), BitVec.ofNat 6 (field bs 30 1)) else none)
      (if b3 / 2 % 2 == 1 then some (BitVec.ofNat 32 (field bs 24 4)) else none)
      word (BitVec.ofNat 16 (field bs 28 2)))
  | 2 => some (.duplicate ch pos pt word)
  | 3 => some (.held ch pos pt (heldValue (field bs 16 1)) (heldQuality (field bs 16 1)) (BitVec.ofNat 48 (field bs 10 6)))
  | 4 => some (.chatter ch pos pt word (heldItemAt bs 10 24 25 26) (BitVec.ofNat 16 (field bs 30 2)))
  | 5 => some (.superseded ch pos pt (heldItemAt bs 10 16 17 18))
  | 6 => some (.dropped ch pos pt (BitVec.ofNat 48 (field bs 10 6)))
  | 7 => (Reason.ofCode fl).map fun why => .rejected ch pos pt why
  | 8 => some (.noPoint ch pos)
  | 9 => some (.marker ch pos)
  | 10 => (GroupKind.ofCode fl).map fun k => .groupEnd pos k (BitVec.ofNat 48 (field bs 10 6)) (BitVec.ofNat 48 (field bs 16 6))
      (BitVec.ofNat 48 (field bs 22 6)) pt
  | 11 => some (.skew (BitVec.ofNat 4 fl) (BitVec.ofNat 32 (field bs 10 4)) (BitVec.ofNat 32 (field bs 14 4)))
  | _ => none

/-- A held value and quality the STATUS form can pack: 0..3, and INVALID and SUSPECT alone (R206). -/
def packable (v : Word32) (q : BitVec 8) : Bool := v.toNat < 4 && q.toNat < 4

/-- The entries the part writes: every held value and quality fits the STATUS form of R206. -/
def JEntry.wf : JEntry → Bool
  | .held _ _ _ v q _ => packable v q
  | .chatter _ _ _ _ h _ => packable h.value h.quality
  | .superseded _ _ _ h => packable h.value h.quality
  | _ => true

/-- The channel and ring position an entry names, if any (R124). -/
def JEntry.named : JEntry → Option (ChanNo × Pos)
  | .applied ch pos _ _ _ _ _ _ _ _ => some (ch, pos)
  | .duplicate ch pos _ _ => some (ch, pos)
  | .held ch pos _ _ _ _ => some (ch, pos)
  | .chatter ch pos _ _ _ _ => some (ch, pos)
  | .superseded ch pos _ _ => some (ch, pos)
  | .dropped ch pos _ _ => some (ch, pos)
  | .rejected ch pos _ _ => some (ch, pos)
  | .noPoint ch pos => some (ch, pos)
  | .marker ch pos => some (ch, pos)
  | .groupEnd _ _ _ _ _ _ => none
  | .skew _ _ _ => none

def JEntry.isGroupEnd : JEntry → Bool
  | .groupEnd _ _ _ _ _ _ => true
  | _ => false

/-! ## Notice record (FORMAT.NOTICE, R207) -/

/-- The kind code of a notice. -/
def NBody.kind : NBody → Nat
  | .configured _ _ _ _ => 1
  | .stopTime _ _ _ => 2
  | .stopCount _ => 2
  | .stepDone _ _ => 3
  | .hold _ _ => 4
  | .endOfHistory _ _ => 5
  | .rewindEnded _ _ _ _ _ _ => 6
  | .markLost _ _ _ _ => 7
  | .fault _ _ => 8
  | .watchHit _ _ _ => 9
  | .lagging _ => 10
  | .rejoined _ _ => 11
  | .drained _ => 12
  | .seqBreak _ _ => 13
  | .rejected _ => 14
  | .lateRecord _ _ => 15
  | .marker _ => 16
  | .groupSplit _ _ => 17
  | .dwellFull => 18
  | .overrideFull _ _ => 19
  | .overrideEnded _ _ _ => 20
  | .ringGuard _ _ _ => 21
  | .fillInvalid _ _ => 22

/-- The class of a notice, R194. -/
def NBody.cls : NBody → NClass
  | .configured _ _ _ _ => .lane
  | .stopTime _ _ _ => .lane
  | .stopCount _ => .lane
  | .stepDone _ _ => .lane
  | .hold _ _ => .lane
  | .endOfHistory _ _ => .lane
  | .rewindEnded _ _ _ _ _ _ => .lane
  | .markLost _ _ _ _ => .lane
  | .fault _ _ => .lane
  | .watchHit _ _ _ => .watch
  | .lagging _ => .channel
  | .rejoined _ _ => .channel
  | .drained _ => .channel
  | .seqBreak _ _ => .channel
  | .rejected _ => .record
  | .lateRecord _ _ => .record
  | .marker _ => .record
  | .groupSplit _ _ => .record
  | .dwellFull => .record
  | .overrideFull _ _ => .override
  | .overrideEnded _ _ _ => .override
  | .ringGuard _ _ _ => .guarding
  | .fillInvalid _ _ => .guarding

def NClass.code : NClass → Nat
  | .lane => 0
  | .watch => 1
  | .channel => 2
  | .record => 3
  | .override => 4
  | .guarding => 5

/-- LANE and WATCH notices are essential (R194). -/
def NClass.essential : NClass → Bool
  | .lane => true
  | .watch => true
  | .channel => false
  | .record => false
  | .override => false
  | .guarding => false

/-- The class mask's member for a class (FORMAT.CONFIG); the essential classes are in no mask. -/
def NClass.masked (m : BitVec 4) : NClass → Bool
  | .lane => false
  | .watch => false
  | .channel => !m.getLsbD 0
  | .record => !m.getLsbD 1
  | .override => !m.getLsbD 2
  | .guarding => !m.getLsbD 3

def RewindOutcome.code : RewindOutcome → Nat
  | .complete => 1
  | .cutShort => 2
  | .faulted => 3

/-- Bits 1..7 of byte 1, by kind (R207); bit 7 of byte 1 is 64 here. -/
def NBody.code : NBody → Nat
  | .stopTime _ _ _ => 1
  | .stopCount _ => 2
  | .hold why _ => why.bitNo + 1
  | .rewindEnded o back _ _ _ _ => o.code + boolBit back 64
  | .markLost push _ _ _ => if push then 2 else 1
  | .fault code _ => code.code
  | .watchHit slot _ _ => slot.toNat
  | .rejoined bySet _ => boolBit bySet 1
  | .rejected why => why.code
  | .lateRecord full _ => if full then 2 else 1
  | .fillInvalid closed _ => if closed then 2 else 1
  | .configured _ _ _ _ => 0
  | .stepDone _ _ => 0
  | .endOfHistory _ _ => 0
  | .lagging _ => 0
  | .drained _ => 0
  | .seqBreak _ _ => 0
  | .marker _ => 0
  | .groupSplit _ _ => 0
  | .dwellFull => 0
  | .overrideFull _ _ => 0
  | .overrideEnded _ _ _ => 0
  | .ringGuard _ _ _ => 0

/-- The kind's values from byte 12 (LANE) or byte 16 (others), R207. -/
def NBody.values : NBody → List Byte
  | .configured t p s e => timeBytes t ++ leBytes 2 p.toNat ++ leBytes 2 s.toNat ++ leBytes 1 e.toNat
  | .stopTime c stop tg => timeBytes c ++ timeBytes stop ++ timeBytes tg
  | .stopCount c => timeBytes c
  | .stepDone n c => leBytes 2 n.toNat ++ timeBytes c
  | .hold _ c => timeBytes c
  | .endOfHistory f c => timeBytes f ++ timeBytes c
  | .rewindEnded _ _ g m f c => leBytes 3 g.toNat ++ leBytes 1 m.toNat ++ timeBytes f ++ timeBytes c
  | .markLost _ r g pos => timeBytes r ++ leBytes 4 g.toNat ++ leBytes 4 pos.toNat
  | .fault _ addr => leBytes 5 addr.toNat
  | .watchHit _ n v => leBytes 2 n.toNat ++ leBytes 4 v.toNat
  | .lagging t => timeBytes t
  | .rejoined _ t => timeBytes t
  | .drained t => timeBytes t
  | .seqBreak e f => leBytes 4 e.toNat ++ leBytes 4 f.toNat
  | .rejected _ => []
  | .lateRecord _ t => timeBytes t
  | .marker v => leBytes 4 v.toNat
  | .groupSplit tg n => timeBytes tg ++ leBytes 2 n.toNat
  | .dwellFull => []
  | .overrideFull n f => leBytes 2 n.toNat ++ leBytes 2 f.toNat
  | .overrideEnded v r g => leBytes 4 v.toNat ++ timeBytes r ++ leBytes 4 g.toNat
  | .ringGuard a r f => leBytes 5 a.toNat ++ leBytes 3 0 ++ leBytes 4 r.toNat ++ leBytes 4 f.toNat
  | .fillInvalid _ v => leBytes 4 v.toNat

/-- Bytes 12..31 of a record: LANE notices have one 20-byte area; the others name point and channels, then the detail, whose
bytes 24..31 are the archive reference when there is one (R207). -/
def Notice.tail (n : Notice) : List Byte :=
  if n.body.cls = .lane then padTo 20 n.body.values
  else
    leBytes 2 (n.point.elim 0xFFFF fun p => p.toNat) ++ leBytes 1 (n.chan.elim 0xFF fun c => c.1.toNat) ++
      leBytes 1 (n.chan.elim 0xFF fun c => c.2.toNat) ++
      (match n.arch with
       | none => padTo 16 n.body.values
       | some a => padTo 8 n.body.values ++ leBytes 8 a.toNat)

/-- The 32 bytes of a notice record, FORMAT.NOTICE. -/
def Notice.encode (n : Notice) : List Byte :=
  leBytes 1 (n.body.kind + 32 * n.body.cls.code) ++ leBytes 1 (boolBit n.arch.isSome 1 + 2 * n.body.code) ++ timeBytes n.time ++
    leBytes 4 n.group.toNat ++ n.tail

end Sys2Proof.Machine
end

