-- ==== Sys2Proof/Machine/Ops.lean ====
section
/-! DEFINITION. Shared operations: the control block map, own traffic, the forward stream and the arbiter, the answer lists, and
the posting of notices. -/

namespace Sys2Proof.Machine

/-! ## Updates of one block -/

def State.updPath (s : State) (f : Path → Path) : State := { s with path := f s.path }
def State.updFront (s : State) (f : Front → Front) : State := { s with front := f s.front }
def State.updMerge (s : State) (f : Merge → Merge) : State := { s with merge := f s.merge }
def State.updStager (s : State) (f : Stager → Stager) : State := { s with stager := f s.stager }
def State.updCommit (s : State) (f : Commit → Commit) : State := { s with commit := f s.commit }
def State.updLane (s : State) (f : Timeline → Timeline) : State := { s with lane := f s.lane }
def State.updJrn (s : State) (f : Journal → Journal) : State := { s with jrn := f s.jrn }
def State.updCmd (s : State) (f : CmdProc → CmdProc) : State := { s with cmd := f s.cmd }
def State.updNtc (s : State) (f : NoticeUnit → NoticeUnit) : State := { s with ntc := f s.ntc }
def State.setDir (s : State) (d : List DirEntry) : State := { s with dir := d }
def State.setOvr (s : State) (o : List OvrEntry) : State := { s with ovr := o }
def State.setImg (s : State) (i : Option ImgPass) : State := { s with img := i }

/-- One channel context, by logical number. -/
def State.setChan (s : State) (i : Nat) (f : Chan → Chan) : State :=
  s.updFront fun fr => { fr with chans := fr.chans.modify i f }

/-- The Notice Unit owes the status block a rewrite (R201). -/
def State.markDue (s : State) : State := s.updNtc fun n => { n with due := true }

/-! ## The control block (FORMAT.CB) -/

/-- The CB straps give bits 39..13 of the control block base (INTRO.SIGNALS). -/
def State.cbBase (s : State) : Nat := s.cbStraps.toNat * Config.cbSize

/-- Slot i lies at offset 0x0800 + 64 × i (R176). -/
def State.slotAddr (s : State) (i : BitVec 5) : Nat := s.cbBase + Config.ringOff + 64 * i.toNat

/-- The start of the 64-byte line an address lies in. -/
def lineOf (a : Nat) : Nat := a / 64 * 64

/-! ## Window geometry (R2) -/

/-- L = 64 × ⌈P/8⌉ (R2). -/
def windowLen (p : Nat) : Nat := 64 * ((p + 7) / 8)

/-- The point whose word lies at an address of the point window (R2). -/
def Regions.pointAt (g : Regions) (a : Nat) : Nat := (a - g.pwBase) / 8

/-- The address of the word of point p (R2). -/
def Regions.wordAddr (g : Regions) (p : Nat) : Nat := g.pwBase + 8 * p

/-- The address of the word of point p, where the windows are latched. -/
def State.wordAddr (s : State) (p : PointNo) : Nat := s.regions.elim 0 fun g => g.wordAddr p.toNat

/-! ## Own traffic (R171) -/

/-- A mask that enables every byte of a length. -/
def fullMask (n : Nat) : List Bool := List.replicate n true

/-- An own request is enqueued, or its block waits for a place behind those that wait already (R171). -/
def Path.gen (o : Origin) (addr len : Nat) (k : ReqKind) (p : Path) : Path :=
  let r : OwnReq := { serial := p.nextOwn, origin := o, addr := BitVec.ofNat 40 addr, len := len, kind := k }
  if p.ownQ.length < Config.ownMax ∧ p.waiting.isEmpty then
    { p with ownQ := p.ownQ ++ [r], nextOwn := p.nextOwn + 1 }
  else
    { p with waiting := p.waiting ++ [r], nextOwn := p.nextOwn + 1 }

def genRead (o : Origin) (addr len : Nat) (s : State) : State := s.updPath (Path.gen o addr len .read)

def genWrite (o : Origin) (addr : Nat) (bs : List Byte) (s : State) : State :=
  s.updPath (Path.gen o addr bs.length (.write bs (fullMask bs.length)))

def genMasked (o : Origin) (addr : Nat) (bs : List Byte) (mask : List Bool) (s : State) : State :=
  s.updPath (Path.gen o addr bs.length (.write bs mask))

/-- The block that has waited longest takes the freed place (R171). -/
def Path.enqueueWaiting (p : Path) : Path :=
  match p.waiting with
  | [] => p
  | r :: rest => if p.ownQ.length < Config.ownMax then { p with ownQ := p.ownQ ++ [r], waiting := rest } else p

/-- Own requests not yet answered: waiting, queued or outstanding. -/
def Path.ownOpen (p : Path) : List OwnReq :=
  p.waiting ++ p.ownQ ++ p.outst.filterMap fun o => match o.what with
    | .own r => some r
    | .fwd _ => none

/-- An own request of a kind is unanswered, or its answer has not been acted on. -/
def Path.busy (f : Origin → Bool) (p : Path) : Bool :=
  p.ownOpen.any (fun r => f r.origin) || p.returns.any fun r => f r.req.origin

/-- An own request of a kind is unanswered. -/
def Path.unanswered (f : Origin → Bool) (p : Path) : Bool := p.ownOpen.any fun r => f r.origin

/-- Reads whose block no longer waits for them: their answers will be dropped. -/
def Path.drop (f : Origin → Bool) (p : Path) : Path :=
  let mark := fun (r : OwnReq) => if f r.origin then { r with origin := .dropped } else r
  { p with
    ownQ := p.ownQ.map mark
    waiting := p.waiting.map mark
    outst := p.outst.map fun o => match o.what with
      | .own r => { o with what := .own (mark r) }
      | .fwd _ => o
    returns := p.returns.filter fun r => !f r.req.origin }

/-- The first answer of a kind that waits to be acted on. -/
def Path.ret (f : Ret → Bool) (p : Path) : Option Ret := p.returns.find? f

/-- That answer is acted on. -/
def Path.dropRet (f : Ret → Bool) (p : Path) : Path := { p with returns := p.returns.eraseP f }

/-- An answer to the own request with this serial number. -/
def Ret.isFor (n : Nat) (r : Ret) : Bool := r.req.serial == n

/-! ## Forward stream and arbiter (R164, R172, R173) -/

/-- The own writes to a line that a request reaching the head notes (R172). -/
def Path.noted (p : Path) (f : Fwd) : List Nat :=
  ((p.waiting ++ p.ownQ).filter fun r =>
    (match r.kind with
     | .read => false
     | .write _ _ => true) && lineOf r.addr.toNat == lineOf f.req.addr.toNat).map (·.serial)

/-- A request joins the forward stream behind whatever it holds (R164). -/
def Path.pushFwd (f : Fwd) (p : Path) : Path :=
  if p.fwd.isEmpty then { p with fwd := [f], headNote := p.noted f } else { p with fwd := p.fwd ++ [f] }

/-- The head leaves the stream, and the next request reaches the head. -/
def Path.popFwd (p : Path) : Path :=
  match p.fwd with
  | [] => p
  | _ :: rest => { p with fwd := rest, headNote := (rest.head?.map fun f => p.noted f).getD [] }

/-- The head is eligible once each own write it noted has issued (R172). -/
def Path.headEligible (p : Path) : Bool :=
  !p.fwd.isEmpty && p.headNote.all fun n => !(p.waiting ++ p.ownQ).any fun r => r.serial == n

/-- The arbiter's choice (R173): an offer that stands is kept; with both contending the forwarded request is offered, unless own
traffic has been passed over three times in a row. `ok` says that the head may be offered (R164). -/
def Path.choose (ok : Bool) (p : Path) : Option Side :=
  match p.offer with
  | some o => some o
  | none =>
    if p.headEligible && ok then (if !p.ownQ.isEmpty && p.pass == 3 then some .own else some .fwd)
    else if !p.ownQ.isEmpty then some .own else none

/-- The arbiter looks at its contenders; the pass count is 0 when the own-write queue is empty (R173). -/
def Path.arbitrate (ok : Bool) (p : Path) : Path :=
  { p with offer := p.choose ok, pass := if p.ownQ.isEmpty then 0 else p.pass }

/-- The memory side takes the head of the forward stream (R160, R173). -/
def Path.issueFwd (p : Path) : Path :=
  match p.fwd with
  | [] => p
  | f :: _ =>
    let q := p.popFwd
    { q with
      outst := q.outst ++ [{ tag := f.req.tag, what := .fwd f }]
      offer := none
      pass := if p.ownQ.isEmpty then p.pass else min 3 (p.pass + 1) }

/-- The memory side takes the head of the own-write queue (R160, R173). -/
def Path.issueOwn (tag : BitVec 5) (p : Path) : Path :=
  match p.ownQ with
  | [] => p
  | r :: rest => { p with ownQ := rest, outst := p.outst ++ [{ tag := tag, what := .own r }], offer := none, pass := 0 }

/-- The request the memory-side port offers (R173). -/
def State.memoryPort (s : State) : Option Issued :=
  match s.path.offer with
  | some .fwd => s.path.fwd.head?.map .fwd
  | some .own => s.path.ownQ.head?.map .own
  | none => none

/-! ## Answer lists (R159) -/

/-- A request the port has taken is appended to its tag's list, with its response where it is ready at once. -/
def Path.take (tag : BitVec 5) (win : Bool) (resp : Option Resp) (p : Path) : Path :=
  { p with answers := p.answers ++ [{ id := p.nextId, tag := tag, win := win, resp := resp }], nextId := p.nextId + 1 }

/-- The response of a taken request becomes ready. -/
def Path.ready (id : Nat) (r : Resp) (p : Path) : Path :=
  { p with answers := p.answers.map fun a => if a.id == id then { a with resp := some r } else a }

/-- The REFUSED response. -/
def refusal (tag : BitVec 5) : Resp := { tag := tag, status := .refused, data := [] }

/-- The port takes requests (R159). -/
def State.canTake (s : State) : Bool :=
  !s.resetAsserted && s.path.held.length < Config.heldMax && s.path.answers.length < Config.answerMax

/-- Window reads that have been forwarded and are not yet answered (R80): those on the answer lists that are not held. -/
def Path.windowReadsOut (p : Path) : Bool :=
  p.answers.any fun a => a.win && !p.held.any fun h => h.id == a.id

/-- Window reads forwarded whose data has not returned. -/
def Path.windowReadIds (p : Path) : List Nat :=
  let isWin := fun (f : Fwd) => f.cls == .point || f.cls == .aliasWin || f.cls == .raw
  (p.fwd.filter isWin).map (·.id) ++ p.outst.filterMap fun o => match o.what with
    | .fwd f => if isWin f then some f.id else none
    | .own _ => none

/-- Held reads enter the forward stream in the order taken (R169); `raw` releases them to be answered unmerged (R170). -/
def Path.release (raw : Bool) (p : Path) : Path :=
  (p.held.foldl (fun q f => q.pushFwd (if raw then { f with cls := .raw } else f)) { p with held := [] })

/-! ## Notices (R193 to R197) -/

/-- A notice with the R and group number standing as its source hands it in (R193, R207). -/
def State.notice (s : State) (b : NBody) : Notice :=
  { time := s.lane.r, group := s.lane.group, point := none, chan := none, arch := none, body := b }

/-- The ring has room (R193). -/
def State.ringRoom (s : State) (g : Regions) : Bool := (s.ntc.produced - s.ntc.consumed).toNat < 2 ^ g.nExp

/-- A record goes into the ring at the position of the produced count, which advances (R193). -/
def writeNotice (g : Regions) (n : Notice) (s : State) : State :=
  (genWrite .noticeWrite (g.nBase + 32 * (s.ntc.produced.toNat % 2 ^ g.nExp)) n.encode s).updNtc fun u =>
    { u with produced := u.produced + 1, due := true }

/-- A notice that was to be posted and is not stored (R195). -/
def discardNotice (s : State) : State := s.updNtc fun u => { u with discarded := u.discarded + 1, due := true }

/-- A notice joins the tail of the overflow buffer (R195). -/
def bufferNotice (n : Notice) (s : State) : State := s.updNtc fun u => { u with overflow := u.overflow ++ [n] }

/-- Posting of one notice (R194, R195, R199). Nothing is posted where no ring is latched (R194). -/
def post (n : Notice) (s : State) : State :=
  match s.regions with
  | none => s
  | some g =>
    if n.body.cls.masked s.ntc.mask then s
    else if !s.ntc.works then discardNotice s
    else if s.ntc.overflow.isEmpty && s.ringRoom g then writeNotice g n s
    else if n.body.cls.essential && s.ntc.overflow.length < Config.overflowMax then bufferNotice n s
    else if !n.body.cls.essential && s.ntc.overflow.length < Config.overflowInfoMax then bufferNotice n s
    else discardNotice s

/-- A LANE notice: no point, no channel, no archive reference (R207). -/
def postLane (b : NBody) (s : State) : State := post (s.notice b) s

/-- Notices leave the head of the overflow buffer for the ring while it has room (R197). -/
def drainOverflow (g : Regions) : List Notice → State → State
  | [], s => s.updNtc fun u => { u with overflow := [] }
  | n :: rest, s =>
    if s.ringRoom g then drainOverflow g rest (writeNotice g n s)
    else s.updNtc fun u => { u with overflow := n :: rest }

/-- The notice line is asserted exactly when the produced count differs from the consumed count and the line is enabled (R198). -/
def State.noticeLine (s : State) : Bool := s.ntc.lineEn && s.ntc.produced != s.ntc.consumed

end Sys2Proof.Machine
end

