-- ==== Sys2Proof/Machine/Flags.lean ====
section
/-! DEFINITION. What the blocks compute from the state: presentation of read data, channel states, known and safe time, the next
group, the lane's standing conditions, and the status block. -/

namespace Sys2Proof.Machine

/-! ## Point Directory and Override Table -/

def State.dirAt (s : State) (p : PointNo) : Option DirEntry := s.dir[p.toNat]?

def State.setDirAt (s : State) (p : PointNo) (f : DirEntry → DirEntry) : State := s.setDir (s.dir.modify p.toNat f)

/-- The entries of a range of points take a new value as one change (R190). -/
def mapRange (first count : Nat) (f : DirEntry → DirEntry) (d : List DirEntry) : List DirEntry :=
  d.mapIdx fun i e => if first ≤ i ∧ i < first + count then f e else e

def findOvr (o : List OvrEntry) (p : PointNo) : Option OvrEntry := o.find? fun e => e.point == p

def removeOvr (o : List OvrEntry) (p : PointNo) : List OvrEntry := o.filter fun e => e.point != p

/-! ## Presentation (R18) -/

/-- The word a requester receives for point p of a point-window read, R18. -/
def State.present (s : State) (p : PointNo) (w : PointWord) : PointWord :=
  match findOvr s.ovr p with
  | some o => { w with value := o.value, quality := (o.quality &&& qStored) ||| qOverridden }
  | none =>
    match s.dirAt p with
    | none => w
    | some e =>
      match e.sel with
      | .live => w
      | .hold v q => { w with value := v, quality := q ||| qPresented }
      | .lastGood =>
        match e.lastGood with
        | some v => { w with value := v, quality := (w.quality &&& ~~~(qInvalid ||| qSuspect)) ||| qPresented }
        | none => { w with quality := w.quality ||| qInvalid }
      | .blank => { w with value := 0, quality := qInvalid }

/-- The words of one response, from the word of point `p` on; tail words are returned as stored (R3, R18). -/
def State.mergeWords (s : State) (g : Regions) : Nat → List Byte → List Byte
  | p, a :: b :: c :: d :: e :: f :: h :: i :: rest =>
    let bs := [a, b, c, d, e, f, h, i]
    (if p < g.points then (s.present (BitVec.ofNat 16 p) (PointWord.ofBytes bs)).toBytes else bs) ++ s.mergeWords g (p + 1) rest
  | _, bs => bs

/-! ## Channels (R45, R46) -/

def Place.isChecked : Place → Bool
  | .checked _ => true
  | .inflight _ _ => false

def Place.pos : Place → Pos
  | .checked r => r.pos
  | .inflight _ p => p

/-- The distance of a position from its channel's start position (R24, R53). -/
def Chan.dist (c : Chan) (p : Pos) : Nat := (p - c.start).toNat

/-- The head record: the oldest checked record (R30). -/
def Chan.head (c : Chan) : Option Rec :=
  match c.heads with
  | .checked r :: _ => some r
  | _ => none

/-- Records remain before the fill: unfetched, or in flight (R46). -/
def Chan.remains (c : Chan) : Bool := c.fetch != c.fill || c.heads.any fun p => !p.isChecked

/-- The state of a channel: the first row of R46 that fits. A LAGGING channel that is closed with nothing remaining leaves
LAGGING (R47). -/
def Chan.calc (c : Chan) : ChanState :=
  if c.heads.any Place.isChecked && !c.lagging then .primed
  else if c.lagging && !(c.closed && !c.remains) then .lagging
  else if c.remains then .fetching
  else if c.closed then .drained
  else .empty

/-- The known time of a channel (R45). -/
def Chan.known (c : Chan) : Int :=
  match c.calc, c.head with
  | .primed, some r => (r.ct.toNat : Int)
  | _, _ => c.lastCt.getD (c.floor.toNat : Int)

/-- FETCHING and EMPTY channels count in the safe time (R51). -/
def Chan.counts (c : Chan) : Bool := c.calc == .fetching || c.calc == .empty

def minOpt (a : Option Int) (b : Int) : Option Int :=
  match a with
  | none => some b
  | some x => some (if b < x then b else x)

/-- The safe time; none is unbounded (R51). -/
def State.safe (s : State) : Option Int :=
  (s.front.chans.filter Chan.counts).foldl (fun a c => minOpt a c.known) none

/-- The safe time by the states the channels show (R51). In REWINDING a channel keeps the state it has until an event R46 names, so
that one that is DRAINED stays out although the walk has moved its fetch position back (R48). -/
def State.safeStanding (s : State) : Option Int :=
  if s.lane.lane = .rewinding then
    (s.front.chans.filter fun c => c.st == .fetching || c.st == .empty).foldl (fun a c => minOpt a c.known) none
  else s.safe

/-- The safe time is at least a time. -/
def State.safeFrom (s : State) (t : Nat) : Bool :=
  match s.safe with
  | none => true
  | some x => (t : Int) ≤ x

/-- The logical number of an enabled physical channel (R22). -/
def State.logical (s : State) (phys : ChanNo) : Option Nat := s.front.chans.findIdx? fun c => c.phys == phys

def State.chanAt (s : State) (i : Nat) : Option Chan := s.front.chans[i]?

/-- The offset of a channel's skew set, R43. -/
def State.offsetOf (s : State) (c : Chan) : Int := ((s.front.offsets[c.skewSet.toNat]?).getD 0).toInt

/-! ## Timed items and the next group (R53 to R57) -/

/-- A merge key: time, logical channel, distance of the ring position (R53). -/
structure Key where
  time : Nat
  chan : Nat
  dist : Nat
  deriving DecidableEq, Repr

/-- Keys compare by time, then logical channel, then ring position (R53). -/
def Key.lt (a b : Key) : Bool :=
  a.time < b.time || (a.time == b.time && (a.chan < b.chan || (a.chan == b.chan && a.dist < b.dist)))

/-- What a timed item is: the head record of a channel, or a dwell entry (R53). -/
inductive Source where
  | head (i : Nat) (r : Rec)
  | dwell (e : DwellEntry)
  deriving DecidableEq, Repr

/-- The head records that are timed items (R53). -/
def headItems (f : Time) : Nat → List Chan → List (Key × Source)
  | _, [] => []
  | i, c :: rest =>
    let more := headItems f (i + 1) rest
    match c.calc, c.head with
    | .primed, some r =>
      if r.kind ≠ .alive ∧ f.toNat ≤ r.ct.toNat then
        ({ time := r.ct.toNat, chan := i, dist := c.dist r.pos }, .head i r) :: more
      else more
    | _, _ => more

/-- The key of a dwell entry: its release time, and the channel and position of its held record (R53). -/
def State.dwellKey (s : State) (e : DwellEntry) : Key :=
  { time := e.release.toNat, chan := e.item.chan.toNat,
    dist := ((s.chanAt e.item.chan.toNat).map fun c => c.dist e.item.pos).getD e.item.pos.toNat }

/-- The timed items with their keys (R53). -/
def State.timedItems (s : State) : List (Key × Source) :=
  headItems s.lane.f 0 s.front.chans ++ s.merge.dwell.map fun e => (s.dwellKey e, .dwell e)

def leastItem : List (Key × Source) → Option (Key × Source)
  | [] => none
  | x :: rest =>
    match leastItem rest with
    | none => some x
    | some y => if y.1.lt x.1 then some y else some x

/-- The next group time: the least time among the timed items, quantised down to the grid (R54). -/
def State.nextTg (s : State) : Option Nat :=
  (leastItem s.timedItems).map fun x =>
    s.merge.start.toNat + s.merge.quantum * ((x.1.time - s.merge.start.toNat) / s.merge.quantum)

/-- The next timed group is formable (R55). -/
def State.formable (s : State) : Bool :=
  match s.nextTg with
  | none => false
  | some tg => s.safeFrom (tg + s.merge.quantum)

/-- What the Merge Unit offers (R55). -/
inductive Offer where
  | late
  | timed (tg : Nat)
  deriving DecidableEq, Repr

/-- The offer of the Merge Unit: none while a group is in flight, while the lane is REWINDING, FAULTED, CONFIGURING or
UNCONFIGURED (R55, R77, R119); the late group first (R72). -/
def State.offered (s : State) : Option Offer :=
  if s.commit.fly.isSome then none
  else
    match s.lane.lane with
    | .stopped | .running | .stepping | .holding =>
      if !s.stager.late.isEmpty then some .late
      else if s.formable then s.nextTg.map .timed
      else none
    | .unconfigured | .configuring | .rewinding | .faulted => none

/-- A blocking channel (R73). -/
def State.blockingChan (s : State) (c : Chan) : Bool :=
  c.calc == .empty &&
    (match s.nextTg with
     | none => true
     | some tg => c.known < ((tg + s.merge.quantum : Nat) : Int))

def State.running (s : State) : Bool := s.lane.lane == .running || s.lane.lane == .stepping

/-- The lane is blocked (R73). -/
def State.blocked (s : State) : Bool :=
  s.running && s.commit.fly.isNone && s.stager.late.isEmpty && !s.formable && s.front.chans.any s.blockingChan

/-- History has ended (R76). -/
def State.historyEnded (s : State) : Bool :=
  s.front.chans.all (fun c => c.calc == .drained) && s.merge.dwell.isEmpty && s.stager.cur.isEmpty && s.stager.late.isEmpty &&
    s.commit.fly.isNone

/-! ## Standing conditions -/

def Holds.isEmpty (h : Holds) : Bool := !(h.watch || h.stopTime || h.stopCount || h.noticeFull || h.anchorStarved)

def Holds.has (h : Holds) : HoldReason → Bool
  | .watch => h.watch
  | .stopTime => h.stopTime
  | .stopCount => h.stopCount
  | .noticeFull => h.noticeFull
  | .anchorStarved => h.anchorStarved

def Holds.set (h : Holds) (why : HoldReason) (b : Bool) : Holds :=
  match why with
  | .watch => { h with watch := b }
  | .stopTime => { h with stopTime := b }
  | .stopCount => { h with stopCount := b }
  | .noticeFull => { h with noticeFull := b }
  | .anchorStarved => { h with anchorStarved := b }

/-- The walk holds reads: from the announcement of a step until its boundary (R132, R169). -/
def WalkPhase.holds : WalkPhase → Bool
  | .between => false
  | .announced => true
  | .undoing => true
  | .stepDone => true
  | .restoring => true

/-- The group in flight holds reads: from the announcement of its commit until its boundary (R80, R169). -/
def FlightPhase.holds : FlightPhase → Bool
  | .forming => false
  | .announced => true
  | .committing => true
  | .ended => true
  | .restoring => true

/-- Holding is in force (R4, R169). -/
def State.holding (s : State) : Bool :=
  s.img.isSome || s.commit.fly.any (fun f => f.phase.holds) || s.jrn.walk.any fun w => w.phase.holds

/-- A group or an undo is in flight (R26, R116). -/
def State.inFlight (s : State) : Bool := s.commit.fly.isSome || s.jrn.walk.isSome

/-- An UNCONFIGURE has written its result and waits for the own-write queue to drain (R186). -/
def State.draining (s : State) : Bool := s.cmd.phase == .draining

/-- The part's engines run: RESET is not asserted and no UNCONFIGURE is taking effect. -/
def State.live (s : State) : Bool := !s.resetAsserted && !s.draining

/-- The slot being processed (R178). -/
def State.slotBusy (s : State) : Option (BitVec 5) :=
  match s.cmd.phase with
  | .idle => none
  | .draining => none
  | _ => some s.cmd.n

/-! ## The status block (R200 to R202, FORMAT.STATUS) -/

/-- An absent replay time in an 8-byte field (R204). -/
def absentTime : Nat := 0xFFFFFFFFFFFFFFFF

/-- The safe time as its 8-byte field shows it. -/
def State.safeField (s : State) : List Byte :=
  match s.safeStanding with
  | none => leBytes 8 absentTime
  | some t => if 0 ≤ t ∧ t ≤ Config.lastTime then leBytes 8 t.toNat else leBytes 8 (Config.shownSafe t).toNat

/-- The 16 bytes of a physical channel: all 0 for a disabled one (R200). -/
def State.chanStatus (s : State) (phys : Nat) : List Byte :=
  match s.front.chans.find? fun c => c.phys.toNat == phys with
  | none => leBytes 16 0
  | some c =>
    leBytes 1 c.st.code ++ leBytes 3 c.lateCount.toNat ++ leBytes 4 c.cursor.toNat ++ leBytes 4 c.retain.toNat ++
      leBytes 4 c.rejected.toNat

def markBytes : Nat → List Mark → List Byte
  | 0, _ => []
  | n + 1, [] => leBytes 6 0 ++ markBytes n []
  | n + 1, m :: rest => timeBytes m.r ++ markBytes n rest

/-- Line `k` of the status block, with the lane state shown as `l`: 0..3 the lane part, 4..19 the channel part. -/
def State.statusLine (s : State) (l : LaneState) (k : Nat) : List Byte :=
  let t := s.lane
  match k with
  | 0 =>
    leBytes 1 l.code ++ leBytes 1 t.holds.bits ++ leBytes 1 t.fault.code ++ leBytes 1 s.jrn.marks.length ++
      leBytes 4 t.group.toNat ++ leBytes 8 t.c.toNat ++ leBytes 8 t.r.toNat ++ leBytes 8 t.f.toNat ++ s.safeField ++
      leBytes 8 (t.stopTime.elim absentTime fun x => x.toNat) ++ leBytes 4 t.pace ++ leBytes 4 t.stopCount.toNat ++
      leBytes 8 t.faultAddr.toNat
  | 1 =>
    padTo 64 (leBytes 4 t.group.toNat ++ leBytes 4 s.jrn.head.toNat ++ leBytes 4 s.jrn.oldest.toNat ++
      leBytes 4 s.ntc.produced.toNat ++ leBytes 4 s.ntc.discarded.toNat ++ leBytes 2 s.ovr.length ++
      leBytes 1 s.merge.dwell.length)
  | 2 => padTo 64 (leBytes 4 t.group.toNat ++ leBytes 4 0 ++ markBytes 8 s.jrn.marks)
  | 3 => leBytes 64 0
  | k + 4 => s.chanStatus (4 * k) ++ s.chanStatus (4 * k + 1) ++ s.chanStatus (4 * k + 2) ++ s.chanStatus (4 * k + 3)

/-- One line is written when its contents differ from what was last generated for it (R201). -/
def rewriteLine (l : LaneState) (s : State) (k : Nat) : State :=
  let bs := s.statusLine l k
  if (s.ntc.status[k]?).join = some bs then s
  else
    (genWrite .statusWrite (s.cbBase + Config.statusOff + 64 * k) bs s).updNtc fun u =>
      { u with status := u.status.set k (some bs) }

/-- A rewrite of the status block, showing lane state `l` (R201, R202). The lines that differ are written in ascending order (log 49). -/
def rewriteStatus (l : LaneState) (s : State) : State :=
  ((List.range 20).foldl (rewriteLine l) s).updNtc fun u => { u with due := false }

/-- The status block is written in these lane states (R202). -/
def LaneState.statusWritten : LaneState → Bool
  | .unconfigured => false
  | .configuring => false
  | .stopped => true
  | .running => true
  | .stepping => true
  | .holding => true
  | .rewinding => true
  | .faulted => true

end Sys2Proof.Machine
end

