-- ==== Sys2Proof/Machine/Judge.lean ====
section
/-! DEFINITION. What a write covers, how the write at the head of the forward stream is judged, and what ends every event (02, 08,
09, 10). -/

namespace Sys2Proof.Machine

/-! ## Lines and masks (R27, R165) -/

def within (a base len : Nat) : Bool := base ≤ a && a < base + len

/-- The channel whose ring an address falls in (R27). -/
def ringAt (a : Nat) : Nat → List Chan → Option (Nat × Chan)
  | _, [] => none
  | i, c :: rest => if within a c.base (32 * 2 ^ c.k) then some (i, c) else ringAt a (i + 1) rest

/-- The mask member of a write for the byte at an address. -/
def maskAt (r : Req) (off : Nat) : Bool :=
  match r.kind with
  | .read => false
  | .write _ m => decide (r.addr.toNat ≤ off) && (m[off - r.addr.toNat]?).getD false

/-- The write's byte at an address. -/
def byteAt (r : Req) (off : Nat) : Byte :=
  match r.kind with
  | .read => 0
  | .write d _ => if r.addr.toNat ≤ off then (d[off - r.addr.toNat]?).getD 0 else 0

/-- A write covers a field when its mask enables any byte of the field (R165). -/
def covers (r : Req) (a n : Nat) : Bool := (List.range n).any fun i => maskAt r (a + i)

def coversAll (r : Req) (a n : Nat) : Bool := (List.range n).all fun i => maskAt r (a + i)

def bytesAt (r : Req) (a n : Nat) : List Byte := (List.range n).map fun i => byteAt r (a + i)

def State.entryAddr (s : State) (phys : ChanNo) : Nat := s.cbBase + Config.tableOff + 32 * phys.toNat

def State.coversFill (s : State) (r : Req) : Bool := s.front.chans.any fun c => covers r (s.entryAddr c.phys + 0x10) 4

def State.coversClosed (s : State) (r : Req) : Bool := s.front.chans.any fun c => covers r (s.entryAddr c.phys + 0x14) 1

/-- The consumed count is snooped in every lane state but UNCONFIGURED (R166). -/
def State.coversConsumed (s : State) (r : Req) : Bool := s.regions.isSome && covers r (s.cbBase + Config.countersOff) 4

/-- The command slot a write's line is (R176). -/
def State.slotOf (s : State) (r : Req) : Option (BitVec 5) :=
  if within r.addr.toNat (s.cbBase + Config.ringOff) Config.ringSize then
    some (BitVec.ofNat 5 ((r.addr.toNat - (s.cbBase + Config.ringOff)) / 64))
  else none

def State.coversOwner (s : State) (r : Req) : Bool :=
  match s.slotOf r with
  | none => false
  | some i => covers r (s.slotAddr i) 4 || s.slotBusy == some i

/-- A write judged at the head of the forward stream (R164): a GUARDED write, a SNOOPED write that covers a snooped field, or a write to
the slot being processed. The owners' rows issue or refuse it. -/
def State.judged (s : State) (f : Fwd) : Bool :=
  match f.cls with
  | .guarded => true
  | .snooped => s.coversFill f.req || s.coversClosed f.req || s.coversConsumed f.req || s.coversOwner f.req
  | .pass => false
  | .point => false
  | .aliasWin => false
  | .raw => false

/-! ## The ring guard (R29, R168) -/

/-- Slot s is guarded when (s - retain) modulo 2^k is less than fill - retain (R168). -/
def Chan.guardsSlot (c : Chan) (slot : Nat) : Bool :=
  (slot + 2 ^ c.k - c.retain.toNat % 2 ^ c.k) % 2 ^ c.k < (c.fill - c.retain).toNat

/-- The slots of the line a ring write lies in that the write covers (R168). -/
def Chan.slotsCovered (c : Chan) (r : Req) : List Nat :=
  let first := (lineOf r.addr.toNat - c.base) / 32
  [first, first + 1].filter fun i => covers r (c.base + 32 * i) 32

/-- A GUARDED write's judgement: the channel whose guard refuses it. -/
def State.guardRefuses (s : State) (r : Req) : Option (Nat × Chan) :=
  match ringAt r.addr.toNat 0 s.front.chans with
  | none => none
  | some (i, c) => if (c.slotsCovered r).any c.guardsSlot then some (i, c) else none

/-! ## Fill count and closed flag (R24, R25) -/

def State.newFill (s : State) (c : Chan) (r : Req) : Pos := BitVec.ofNat 32 (leNat (bytesAt r (s.entryAddr c.phys + 0x10) 4))

def State.newClosed (s : State) (c : Chan) (r : Req) : Bool := (byteAt r (s.entryAddr c.phys + 0x14)).getLsbD 0

def State.fillCovered (s : State) (c : Chan) (r : Req) : Bool := covers r (s.entryAddr c.phys + 0x10) 4

def State.closedCovered (s : State) (c : Chan) (r : Req) : Bool := covers r (s.entryAddr c.phys + 0x14) 1

/-- R24: all four bytes enabled, not behind the current fill, at most 2^k ahead of retain, and on a closed channel no change. -/
def State.fillValid (s : State) (c : Chan) (r : Req) : Bool :=
  let x := s.newFill c r
  coversAll r (s.entryAddr c.phys + 0x10) 4 && c.dist c.fill ≤ c.dist x && (x - c.retain).toNat ≤ 2 ^ c.k &&
    (!c.closed || x == c.fill)

/-- R25: a set flag is not cleared. -/
def State.closedValid (s : State) (c : Chan) (r : Req) : Bool := !c.closed || s.newClosed c r

/-! ## The consumed count (R166) -/

def State.newConsumed (s : State) (r : Req) : Word32 := BitVec.ofNat 32 (leNat (bytesAt r (s.cbBase + Config.countersOff) 4))

/-- R166. -/
def State.consumedValid (s : State) (r : Req) : Bool :=
  coversAll r (s.cbBase + Config.countersOff) 4 &&
    (s.newConsumed r - s.ntc.consumed).toNat ≤ (s.ntc.produced - s.ntc.consumed).toNat

/-! ## The judgement (R164, R165) -/

/-- Every field of channel `c`'s entry that the write covers is valid (R24, R25). -/
def State.chanValid (s : State) (r : Req) (c : Chan) : Bool :=
  (!s.fillCovered c r || s.fillValid c r) && (!s.closedCovered c r || s.closedValid c r)

/-- No owner of a field that a SNOOPED write covers finds it invalid (R165 to R167). -/
def State.snoopedValid (s : State) (r : Req) : Bool :=
  s.front.chans.all (s.chanValid r) && (!s.coversConsumed r || s.consumedValid r) &&
    (match s.slotOf r with
     | none => true
     | some i => s.slotBusy != some i)

/-- The judgement of the head of the forward stream, as its owners then stand (R164, R165, R168). -/
def State.headValid (s : State) (f : Fwd) : Bool :=
  match f.cls with
  | .guarded => (s.guardRefuses f.req).isNone
  | .snooped => s.snoopedValid f.req
  | .pass => true
  | .point => true
  | .aliasWin => true
  | .raw => true

/-- The head may be offered to the memory side: of the writes that are judged only a valid one is (R164). -/
def State.headOffers (s : State) : Bool := s.path.fwd.head?.all s.headValid

/-! ## The end of an event -/

/-- The end of an event: the rewrite it asked for is generated after its own writes (R201), and the arbiter looks again (R164, R173).
While an UNCONFIGURE drains, its last rewrite has been generated and no further one is (R202). -/
def closeEvent (s : State) : State :=
  let s1 := if s.ntc.due && s.lane.lane.statusWritten && !s.draining then rewriteStatus s.lane.lane s else s
  s1.updPath (Path.arbitrate s1.headOffers)

end Sys2Proof.Machine
end

