-- ==== Sys2Proof/Machine/LaneOps.lean ====
section
/-! DEFINITION. Shared operations of the Timeline Controller: lane state, hold reasons, stop time, end of history (05). -/

namespace Sys2Proof.Machine

/-- The lane changes state; leaving RUNNING in PACED mode clears the pace accumulator (R103), and the status block is rewritten
(R99, R201). -/
def Timeline.goTo (l : LaneState) (t : Timeline) : Timeline :=
  { t with lane := l, acc := if t.lane = .running ∧ t.runMode = .paced ∧ l ≠ .running then 0 else t.acc }

def setLane (l : LaneState) (s : State) : State := (s.updLane (Timeline.goTo l)).markDue

/-- The state the resume mode names (R100). -/
def Resume.lane : Resume → LaneState
  | .running => .running
  | .stepping => .stepping

/-- A member joins the hold-reason set; the first one records the resume mode and takes the lane to HOLDING (R100). It is added
when the lane is RUNNING, STEPPING or HOLDING. -/
def Timeline.addHold (why : HoldReason) (t : Timeline) : Timeline :=
  match t.lane with
  | .running => { (t.goTo .holding) with resume := .running, holds := t.holds.set why true }
  | .stepping => { (t.goTo .holding) with resume := .stepping, holds := t.holds.set why true }
  | .holding => { t with holds := t.holds.set why true }
  | _ => t

/-- A member leaves the set; when the last one leaves, the lane returns at once to its resume mode (R100). -/
def Timeline.dropHold (why : HoldReason) (t : Timeline) : Timeline :=
  let h := t.holds.set why false
  if t.lane = .holding ∧ h.isEmpty then { (t.goTo t.resume.lane) with holds := h } else { t with holds := h }

/-- The lane stops: the hold-reason set, the step count and the accumulator are cleared (R107, R118). -/
def Timeline.stopNow (t : Timeline) : Timeline :=
  { (t.goTo .stopped) with holds := Holds.none, steps := 0, acc := 0 }

/-- WATCH, NOTICE_FULL and ANCHOR_STARVED post HOLD on adding; the two stop conditions post STOP_REACHED instead (R109, log 15). -/
def HoldReason.postsHold : HoldReason → Bool
  | .watch => true
  | .stopTime => false
  | .stopCount => false
  | .noticeFull => true
  | .anchorStarved => true

/-- The lane can take a hold reason (R100). -/
def State.canHold (s : State) : Bool :=
  s.lane.lane == .running || s.lane.lane == .stepping || s.lane.lane == .holding

/-- A hold reason is added; a reason already in the set posts nothing and changes nothing (R109). -/
def holdOn (why : HoldReason) (s : State) : State :=
  if s.canHold && !s.lane.holds.has why then
    let s1 := (s.updLane (Timeline.addHold why)).markDue
    if why.postsHold then postLane (.hold why s1.lane.c) s1 else s1
  else s

/-- A hold reason leaves the set (R100, R109). -/
def holdOff (why : HoldReason) (s : State) : State :=
  if s.lane.holds.has why then (s.updLane (Timeline.dropHold why)).markDue else s

/-- The lane stops at once (R107). -/
def stopLane (s : State) : State := (s.updLane Timeline.stopNow).markDue

/-- The end of history stops the lane and is posted (R118). -/
def endHistory (s : State) : State :=
  let s1 := stopLane s
  postLane (.endOfHistory s1.lane.f s1.lane.c) s1

/-- The Merge Unit reports the end of history when the condition becomes true while the lane runs (R76, log 16). -/
def endTest (s : State) : State :=
  let e := s.historyEnded
  let s1 := s.updMerge fun m => { m with ended := e }
  if e && !s.merge.ended && s.running then endHistory s1 else s1

/-- The next group time the stop-time test finds beyond the stop time (R113). It is tested in RUNNING and STEPPING alone, and not while
WATCH or another reason holds the lane (log 39). -/
def State.stopTimeReached (s : State) : Option (Time × Nat) :=
  match s.lane.stopTime, s.nextTg with
  | some st, some tg =>
    if s.running && s.commit.fly.isNone && s.stager.late.isEmpty && st.toNat < tg &&
        (!(s.lane.lane == .running && s.lane.runMode == .paced) || st.toNat ≤ s.lane.c.toNat) then some (st, tg)
    else none
  | _, _ => none

/-- The stop-time test (R113): C is raised to the stop time, the stop time becomes absent, STOP_REACHED is posted and STOP_TIME
joins the set. -/
def stopTimeTest (s : State) : State :=
  match s.stopTimeReached with
  | none => s
  | some (st, tg) =>
    let s1 := s.updLane fun t => { t with c := if t.c.toNat < st.toNat then st else t.c, stopTime := none }
    holdOn .stopTime (postLane (.stopTime s1.lane.c st (BitVec.ofNat 48 tg)) s1)

/-! ## The limit of C (R103) -/

/-- The limit of C: the least of the safe time, the stop time and 2^48 - 1. -/
def State.paceLimit (s : State) : Int :=
  let a : Int := (s.lane.stopTime.elim Config.lastTime fun t => t.toNat : Nat)
  (minOpt s.safe a).getD a

def State.paced (s : State) : Bool := s.lane.lane == .running && s.lane.runMode == .paced

/-- C stands at or above a limit: the accumulator is 0. -/
def Timeline.heldAt (limit : Int) (t : Timeline) : Timeline := if limit ≤ (t.c.toNat : Int) then { t with acc := 0 } else t

/-- While C stands at or above its limit the accumulator stays 0, whichever event brought the limit down. -/
def paceHold (s : State) : State := if s.paced then s.updLane (Timeline.heldAt s.paceLimit) else s

end Sys2Proof.Machine
end

