-- ==== Sys2Proof/Machine/JournalOps.lean ====
section
/-! DEFINITION. Handing entries to the journal and placing them (06). -/

namespace Sys2Proof.Machine

def JSrc.origin : JSrc → Origin
  | .group => .journalGroup
  | .loose phys tok => .journalLoose phys tok
  | .skew => .journalSkew

/-- The address of the entry at a journal position (R123). -/
def Regions.entryAddr (g : Regions) (x : Pos) : Nat := g.jBase + 32 * (x.toNat % 2 ^ g.jExp)

/-- The number of entries held (R123). -/
def Journal.heldCount (j : Journal) : Nat := (j.head - j.oldest).toNat

/-- The journal holds 2^j entries (R125). -/
def State.jrnFull (s : State) (g : Regions) : Bool := 2 ^ g.jExp ≤ s.jrn.heldCount

/-- An entry takes the head position and is written; the head advances (R123). A GROUP_END raises the count of held GROUP_END
entries (R125). -/
def placeEntry (g : Regions) (h : Handed) (s : State) : State :=
  (genWrite h.src.origin (g.entryAddr s.jrn.head) h.entry.encode s).updJrn fun j =>
    { j with
      head := j.head + 1
      geCount := if h.entry.isGroupEnd then j.geCount + 1 else j.geCount
      geps := if h.entry.isGroupEnd then j.geps ++ [j.head] else j.geps }

/-- Entries handed in are placed in order; with the journal full, the oldest entry is read first and the rest wait (R125). -/
def pumpJrn (g : Regions) : List Handed → State → State
  | [], s => s.updJrn fun j => { j with inq := [] }
  | h :: rest, s =>
    if s.jrnFull g then
      let n := s.path.nextOwn
      (genRead .oldestRead (g.entryAddr s.jrn.oldest) 32 s).updJrn fun j => { j with inq := h :: rest, wrapRead := some n }
    else pumpJrn g rest (placeEntry g h s)

/-- An entry is handed to the journal (R123). -/
def handIn (h : Handed) (s : State) : State :=
  match s.regions with
  | none => s
  | some g =>
    if s.jrn.wrapRead.isSome then s.updJrn fun j => { j with inq := j.inq ++ [h] }
    else pumpJrn g (s.jrn.inq ++ [h]) s

/-- A record consumed outside a group is journaled as a loose entry; until that write completes it holds its channel's cursor
back (R28). -/
def handLoose (i : Nat) (pos : Pos) (e : JEntry) (s : State) : State :=
  match s.chanAt i with
  | none => s
  | some c =>
    let tok := s.jrn.nextTok
    let s1 := (s.setChan i fun c => { c with unj := c.unj ++ [(tok, pos)] }).updJrn fun j => { j with nextTok := tok + 1 }
    handIn { entry := e, src := .loose c.phys tok } s1

/-- The positions that hold a channel's cursor back: those of the stager's items of the channel, a release item's being that of its held
record (R78), of the records in its head buffer, and of the records consumed whose journal write has not completed (R28). -/
def State.holdingBack (s : State) (i : Nat) (c : Chan) : List Pos :=
  ((s.stager.cur ++ s.stager.late).filter fun it => it.chan.toNat == i).map (·.pos) ++ c.heads.map Place.pos ++ c.unj.map (·.2)

/-- The least of the positions that hold a channel's cursor back and its fetch position (R28). -/
def State.leastHeld (s : State) (i : Nat) (c : Chan) : Pos :=
  (s.holdingBack i c).foldl (fun a p => if c.dist p < c.dist a then p else a) c.fetch

/-- The cursor of a channel by R28: that least position; where a release item names a record the cursor has passed, the cursor is held
where it stands, and not set back (log 47). -/
def State.cursorOf (s : State) (i : Nat) (c : Chan) : Pos :=
  let p := s.leastHeld i c
  if c.dist p < c.dist c.cursor then c.cursor else p

def moveCursor (s : State) (i : Nat) : State :=
  match s.chanAt i with
  | none => s
  | some c => s.setChan i fun d => { d with cursor := s.cursorOf i c }

/-- Every channel takes its cursor by R28. -/
def moveCursors (s : State) : State := (List.range s.front.chans.length).foldl moveCursor s

/-- The retain of a channel at the overwrite of an entry at position x (R29). -/
def Chan.advanceRetain (x : Pos) (c : Chan) : Chan :=
  if c.dist (x + 1) ≤ c.dist c.retain then c
  else if c.dist c.cursor < c.dist (x + 1) then { c with retain := c.cursor }
  else { c with retain := x + 1 }

end Sys2Proof.Machine
end

