-- ==== Sys2Proof/Machine/ChannelOps.lean ====
section
/-! DEFINITION. Shared operations of the Channel Front and the late path of the Merge Unit (02, 03). -/

namespace Sys2Proof.Machine

/-- A corrected time as a 6-byte field shows it (log 18). -/
def shown (t : Int) : Time := if 0 ≤ t ∧ t ≤ Config.lastTime then BitVec.ofInt 48 t else Config.shownTime t

/-- A notice that concerns one channel names both its numbers (R22). -/
def State.chanNotice (s : State) (i : Nat) (c : Chan) (b : NBody) : Notice :=
  { s.notice b with chan := some (c.phys, BitVec.ofNat 6 i) }

/-- CHANNEL_DRAINED carries the last accepted corrected time (R48); where there is none, a free value (log 17). -/
def postDrained (i : Nat) (c : Chan) (s : State) : State :=
  match c.lastCt with
  | some t => post (s.chanNotice i c (.drained (shown t))) s
  | none =>
    let s1 := post (s.chanNotice i c (.drained (Config.drainedTime s.freeIdx))) s
    { s1 with freeIdx := s1.freeIdx + 1 }

/-- The state of a channel is recomputed (R46); entering DRAINED posts CHANNEL_DRAINED (R48), and every change rewrites the
channel's part of the status block. -/
def recomputeChan (s : State) (i : Nat) : State :=
  match s.chanAt i with
  | none => s
  | some c =>
    if c.calc = c.st then s
    else
      let s1 := (s.setChan i fun d => { d with st := c.calc, lagging := c.calc == .lagging }).markDue
      if c.calc = .drained then postDrained i c s1 else s1

def recomputeAll (s : State) : State := (List.range s.front.chans.length).foldl recomputeChan s

/-- A checked record leaves its head buffer (R33). -/
def takeChecked (i : Nat) (pos : Pos) (s : State) : State :=
  s.setChan i fun c => { c with heads := c.heads.filter fun p => !(p.isChecked && p.pos == pos) }

/-- A rejected record (R40): journaled REJECTED as a loose entry, counted, and posted. -/
def rejectRecord (i : Nat) (pos : Pos) (why : Reason) (pt : Option PointNo) (arch : Option (BitVec 64)) (s : State) : State :=
  match s.chanAt i with
  | none => s
  | some c =>
    let s1 := (handLoose i pos (.rejected (BitVec.ofNat 6 i) pos (pt.getD noPointNo) why) s).setChan i fun d =>
      { d with rejected := d.rejected + 1 }
    post { s1.chanNotice i c (.rejected why) with point := pt, arch := arch } s1

/-- The stager has a free place (R60, R78). -/
def State.stagerRoom (s : State) : Bool := s.stager.cur.length + s.stager.late.length < Config.stagerPlaces

/-- The merge key of an item (R53, R78). -/
def State.itemKey (s : State) (it : Item) : Key :=
  { time := it.keyTime.toNat, chan := it.chan.toNat,
    dist := ((s.chanAt it.chan.toNat).map fun c => c.dist it.pos).getD it.pos.toNat }

/-- The late group holds late items in key order (R71). -/
def State.insertItem (s : State) (it : Item) : List Item → List Item
  | [] => [it]
  | x :: rest => if (s.itemKey it).lt (s.itemKey x) then it :: x :: rest else x :: s.insertItem it rest

/-- The item a record becomes (R58, R71, R78). -/
def Rec.item (r : Rec) (i : Nat) (late unfiltered : Bool) : Item :=
  { body := if r.kind = .marker then .marker r.point r.value r.arch else .record r.point r.value r.quality r.arch unfiltered
    time := r.ct, chan := BitVec.ofNat 6 i, pos := r.pos, keyTime := r.ct, late := late }

/-- A late record that is not placed: journaled DROPPED and posted, with the cause (R70, R71). A late MARKER's entry and notice carry
the record's point index as it stands (log 38). -/
def dropLate (i : Nat) (c : Chan) (full : Bool) (r : Rec) (s : State) : State :=
  let s1 := handLoose i r.pos (.dropped (BitVec.ofNat 6 i) r.pos r.point r.ct) s
  post { s1.chanNotice i c (.lateRecord full r.ct) with time := s1.lane.f, point := some r.point, arch := some r.arch } s1

/-- A late record is counted and disposed of by its channel's late policy (R70, R71). -/
def lateRecord (i : Nat) (r : Rec) (s : State) : State :=
  match s.chanAt i with
  | none => s
  | some c =>
    let s1 := (s.setChan i fun d => { d with lateCount := d.lateCount + 1 })
    match c.late with
    | .drop => dropLate i c false r s1
    | .apply =>
      if s1.stagerRoom then s1.updStager fun g => { g with late := s1.insertItem (r.item i true false) g.late }
      else dropLate i c true r s1

/-- The checked records of a channel, oldest first. -/
def Chan.checkedRecs (c : Chan) : List Rec :=
  c.heads.filterMap fun p => match p with
    | .checked r => some r
    | .inflight _ _ => none

/-- A commit has raised F: each checked record below it is handed over as late, oldest first (R41). -/
def rejudgeChan (s : State) (i : Nat) : State :=
  match s.chanAt i with
  | none => s
  | some c =>
    (c.checkedRecs.filter fun r => r.ct.toNat < s.lane.f.toNat).foldl (fun u r => lateRecord i r (takeChecked i r.pos u)) s

def rejudgeAll (s : State) : State := (List.range s.front.chans.length).foldl rejudgeChan s

/-- A checked record takes the corrected time of its timestamp plus a new offset (R44). -/
def retimeRec (i : Nat) (off : Int) (s : State) (r : Rec) : State :=
  let t : Int := (r.ts.toNat : Int) + off
  if t < 0 ∨ (Config.lastTime : Int) < t then rejectRecord i r.pos .range (some r.point) (some r.arch) (takeChecked i r.pos s)
  else
    let r' := { r with ct := BitVec.ofInt 48 t }
    if t < (s.lane.f.toNat : Int) then lateRecord i r' (takeChecked i r.pos s)
    else s.setChan i fun c => { c with heads := c.heads.map fun p => if p = .checked r then .checked r' else p }

/-- A channel of a transferred set re-times what it holds (R44). -/
def retimeChan (set : BitVec 4) (off : Int) (s : State) (i : Nat) : State :=
  match s.chanAt i with
  | none => s
  | some c =>
    if c.skewSet = set then
      c.checkedRecs.foldl (retimeRec i off)
        (s.setChan i fun d => { d with lastCt := d.lastTs.map fun ts => (ts.toNat : Int) + off })
    else s

/-- A skew transfer: the SKEW entry, the new offset, and the re-timing of the set's channels (R44, R117). -/
def skewTransfer (set : BitVec 4) (new : Word32) (s : State) : State :=
  let old := (s.front.offsets[set.toNat]?).getD 0
  let s1 := (handIn { entry := .skew set old new, src := .skew } s).updFront fun fr =>
    { fr with offsets := fr.offsets.set set.toNat new }
  if old = new then s1
  else (List.range s1.front.chans.length).foldl (retimeChan set new.toInt) s1

/-- Pending SET_CHANNEL values are applied (R26); an anchor flag takes a LAGGING channel out of LAGGING (R47). -/
def applySet (s : State) (i : Nat) : State :=
  match s.chanAt i with
  | none => s
  | some c =>
    match c.pendSet with
    | none => s
    | some (lp, an) =>
      let leaves := an && c.calc == .lagging
      let s1 := s.setChan i fun d =>
        { d with late := lp, anchor := an, pendSet := none, lagging := d.lagging && !an }
      recomputeChan (if leaves then post (s1.chanNotice i c (.rejoined true 0)) s1 else s1) i

def applySets (s : State) : State := (List.range s.front.chans.length).foldl applySet s

/-- A checked record that stays makes a LAGGING channel rejoin, and so does an ALIVE record at or above F (R41, R47). A channel that is
closed with nothing remaining becomes DRAINED, and posts CHANNEL_DRAINED instead as its state is recomputed. -/
def rejoin (i : Nat) (ct : Time) (s : State) : State :=
  match s.chanAt i with
  | none => s
  | some c =>
    if c.lagging then
      let s1 := s.setChan i fun d => { d with lagging := false }
      if ({ c with lagging := false } : Chan).calc = .drained then s1 else post (s1.chanNotice i c (.rejoined false ct)) s1
    else s

/-- Fetches in flight are discarded, keeping their places until their data returns (R34). -/
def discardFetches (keep : Bool) (s : State) : State :=
  s.updFront fun fr =>
    { fr with
      discarded := (if keep then fr.discarded else fr.discarded.map fun d => { d with chan := none }) ++
        fr.chans.flatMap fun c => c.heads.filterMap fun p => match p with
          | .inflight n _ => some { serial := n, chan := if keep then some c.phys else none }
          | .checked _ => none
      chans := fr.chans.map fun c => { c with heads := c.heads.filter Place.isChecked } }

end Sys2Proof.Machine
end

