-- ==== Sys2Proof/Machine/Settle.lean ====
section
/-! DEFINITION. What the blocks do at the end of an event that changed the merge, the channels or the lane; pending settings; faults
and restoration (R51, R73 to R76, R96, R112, R113, R116, R120, R141). -/

namespace Sys2Proof.Machine

/-- ANCHOR_STARVED leaves the set when no anchor channel is blocking (R75, R112). -/
def anchorClear (s : State) : State :=
  if s.front.chans.any fun c => c.anchor && s.blockingChan c then s else holdOff .anchorStarved s

/-- The starvation count returns to 0 when the lane is not blocked (R74). -/
def starveReset (s : State) : State := if s.blocked then s else s.updMerge fun m => { m with starve := 0 }

/-- The lane's standing tests: end of history (R76), then the stop time (R113). -/
def laneTests (s : State) : State := stopTimeTest (endTest s)

/-- Channel states are recomputed (R46), but in REWINDING only by the events R46 names. -/
def recomputeLive (s : State) : State := if s.lane.lane = .rewinding then s else recomputeAll s

/-- The end of an event that may have changed a channel, a timed item or the lane. ANCHOR_STARVED leaves the set before the end of
history is tested: where closing the starved anchor ends history, the lane has resumed, and stops with END_OF_HISTORY (log 16). Last, a
limit of C that the event has brought down to C or below leaves the accumulator 0 (R103). -/
def settle (s : State) : State := starveReset (paceHold (laneTests (anchorClear (recomputeLive s))))

/-- The same for SET_CHANNEL, which does not by itself remove an ANCHOR_STARVED hold (R26, R112). -/
def settleKeep (s : State) : State := starveReset (paceHold (laneTests (recomputeLive s)))

/-! ## Pending settings (R115 to R117) -/

/-- The pace, then the stop time, then the stop count move into their live values (R116). -/
def transferSettings (s : State) : State :=
  s.updLane fun t =>
    { t with
      pace := t.pend.pace.getD t.pace
      stopTime := t.pend.stopTime.getD t.stopTime
      stopCount := (t.pend.stopCount.map (·.1)).getD t.stopCount
      reload := (t.pend.stopCount.map (·.2)).getD t.reload
      pend := { t.pend with pace := none, stopTime := none, stopCount := none } }

def transferSkew (s : State) (set : Nat) : State :=
  match (s.lane.pend.skew[set]?).join with
  | none => s
  | some off => skewTransfer (BitVec.ofNat 4 set) off s

/-- The skew offsets transfer in ascending set order (R116, R117). -/
def transferSkews (s : State) : State :=
  ((List.range 16).foldl transferSkew s).updLane fun t => { t with pend := { t.pend with skew := List.replicate 16 none } }

/-! ## Faults (R96, R120, R121, R141) -/

/-- The fault code of an own access, R120; none for the accesses whose MEMERR is no fault (R174, R178). -/
def Origin.faultCode : Origin → Option FaultCode
  | .filterRead => some .imageRead
  | .commitRead => some .imageRead
  | .undoWordRead => some .imageRead
  | .holdRead => some .imageRead
  | .imgRead => some .imageRead
  | .commitWrite => some .imageWrite
  | .restoreWrite => some .imageWrite
  | .undoWrite => some .imageWrite
  | .imgWrite => some .imageWrite
  | .journalGroup => some .journalWrite
  | .journalLoose _ _ => some .journalWrite
  | .journalSkew => some .journalWrite
  | .entryRead => some .journalRead
  | .noticeWrite => some .noticeWrite
  | .statusWrite => some .statusWrite
  | .fetch _ => none
  | .oldestRead => none
  | .descRead => none
  | .recordRead _ => none
  | .tableRead _ => none
  | .resultWrite => none
  | .ownerWrite => none
  | .dropped => none

/-- A MEMERR answer that faults the lane (R120). -/
def Ret.isError (r : Ret) : Bool := r.status == .memerr && r.req.origin.faultCode.isSome

/-- Such an answer has come and OWN_ACCESS_ERROR has not yet acted on it. No further item is taken (R96) and no further entry undone
(R141); what else may still happen is log 37's. -/
def State.faultComes (s : State) : Bool := s.path.returns.any Ret.isError

/-- One write of the list of writes is restored: the old word to the point, and its directory fields (R96). -/
def restoreOne (s : State) (w : WriteRec) : State :=
  (genWrite .restoreWrite (s.wordAddr w.point) w.oldWord.toBytes s).setDirAt w.point fun e =>
    { e with lastChange := w.oldChange, lastGood := w.oldGood }

/-- The list of writes is restored, newest first (R96, R141). -/
def restoreAll (ws : List WriteRec) (s : State) : State := ws.foldl restoreOne s

/-- A fault meets the group in flight: a formation stops (R59); a commit is aborted and restored (R96). -/
def abortFlight (s : State) : State :=
  match s.commit.fly with
  | none => s
  | some f =>
    match f.phase with
    | .forming =>
      ((s.updCommit fun c => { c with fly := none }).updMerge fun m => { m with filter := none }).updPath
        (Path.drop fun o => o == .filterRead)
    | .restoring => s
    | .announced | .committing | .ended =>
      (restoreAll f.writes (s.updPath (Path.drop fun o => o == .commitRead))).updCommit fun c =>
        { c with fly := some { f with phase := .restoring, writes := [], reading := none } }

/-- A step has been begun: its flag is set (R132). -/
def WalkPhase.stepRuns : WalkPhase → Bool
  | .between => false
  | .announced => false
  | .undoing => true
  | .stepDone => true
  | .restoring => false

def Timeline.takeBack (k : Clock) (t : Timeline) : Timeline := { t with r := k.r, f := k.f, c := k.c, group := k.group }

/-- A fault meets a rewind in flight (R141): a step in flight is restored with the clock values at its start. -/
def failWalk (s : State) : State :=
  match s.jrn.walk with
  | none => s
  | some w =>
    if w.phase = .restoring then s
    else
      let s1 := s.updPath (Path.drop fun o => o == .entryRead || o == .undoWordRead)
      let s2 := if w.phase.stepRuns then (restoreAll w.writes s1).updLane (Timeline.takeBack w.snap) else s1
      s2.updJrn fun j => { j with walk := some { w with phase := .restoring, writes := [], reading := none, cur := none } }

/-- A fault meets the CONFIGURING pass: the pass ends and held reads are released, to be merged (R20, R170). -/
def failPass (s : State) : State :=
  if s.img.isSome then
    ((s.setImg none).updPath (Path.drop fun o => o == .imgRead || o == .imgWrite)).updPath (Path.release false)
  else s

def Timeline.toFaulted (code : FaultCode) (addr : Addr) (t : Timeline) : Timeline :=
  { (t.goTo .faulted) with holds := Holds.none, steps := 0, acc := 0, fault := code, faultAddr := addr }

/-- Entry into FAULTED (R120, R121): the code is recorded, FAULT is posted, and every block stops as its rule states. -/
def enterFault (code : FaultCode) (addr : Addr) (s : State) : State :=
  let s1 := postLane (.fault code addr) ((s.updLane (Timeline.toFaulted code addr)).markDue)
  failPass (failWalk (abortFlight (discardFetches true s1)))

end Sys2Proof.Machine
end

