-- ==== Sys2Proof/Machine/CommandOps.lean ====
section
/-! DEFINITION. Shared operations of the Command Processor: taking a slot, judging a descriptor, answering it (09). -/

namespace Sys2Proof.Machine

/-- Processing of slot N begins: it leaves the pending-slot set and its descriptor is read (R178). -/
def beginSlot (s : State) : State :=
  genRead .descRead (s.slotAddr s.cmd.n) 64 (s.updCmd fun c =>
    { c with phase := .reading, pend := c.pend.filter fun i => i != c.n })

/-- Where N stands at a slot of the pending-slot set, its processing begins at once (R178). -/
def startPending (s : State) : State := if s.cmd.pend.contains s.cmd.n then beginSlot s else s

/-- The bytes of the result write: byte 7 and bytes 48..63 of the slot's line (FORMAT.DESCRIPTOR). -/
def resultLine (res : Nat) (data : List Byte) : List Byte := leBytes 7 0 ++ leBytes 1 res ++ leBytes 40 0 ++ padTo 16 data

/-- The bytes of the line that the result write enables. -/
def resultMask : List Bool := List.replicate 7 false ++ [true] ++ List.replicate 40 false ++ List.replicate 16 true

/-- The result code and result data in one write (R178, FORMAT.DESCRIPTOR). -/
def genResult (res : Nat) (data : List Byte) (s : State) : State :=
  genMasked .resultWrite (s.slotAddr s.cmd.n) (resultLine res data) resultMask s

/-- The owner write: SOFTWARE in the slot's owner word. -/
def genOwner (s : State) : State :=
  genMasked .ownerWrite (s.slotAddr s.cmd.n) (leBytes 8 0) (List.replicate 4 true ++ List.replicate 4 false) s

/-- N advances, and no slot is being processed (R178). -/
def CmdProc.advance (ph : CmdPhase) (c : CmdProc) : CmdProc := { c with n := c.n + 1, phase := ph }

/-- A command is answered: the result, then the owner; N advances; a pending slot begins (R178). The next slot's descriptor read is
generated here, and the status rewrite at the end of the event, behind it (log 40). -/
def complete (res : Nat) (data : List Byte) (s : State) : State :=
  startPending (((genOwner (genResult res data s)).updCmd (CmdProc.advance .idle)).markDue)

/-- BAD_PARAM with the index of the first offending parameter (R179, FORMAT.DESCRIPTOR; cause VALUE, log 19). -/
def badParam (index : Nat) (s : State) : State := complete resBadParam (badParamData index 0xFF causeValue 0) s

/-- The command stays the slot being processed until its wait ends (R181). -/
def waitFor (w : WaitCmd) (s : State) : State := s.updCmd fun c => { c with phase := .waiting w }

/-- Command codes, FORMAT.DESCRIPTOR. -/
def codeConfigure : Nat := 1
def codeUnconfigure : Nat := 2
def codeRun : Nat := 3
def codeStep : Nat := 4
def codeStop : Nat := 5
def codeSetPace : Nat := 6
def codeSetStopTime : Nat := 7
def codeSetStopCount : Nat := 8
def codeSetSkew : Nat := 9
def codeSetChannel : Nat := 10
def codeMark : Nat := 11
def codeDropMark : Nat := 12
def codeRewind : Nat := 13
def codeStepBack : Nat := 14
def codeWatchSet : Nat := 15
def codeWatchClear : Nat := 16
def codeSetPresentation : Nat := 17
def codeSetDwell : Nat := 18
def codeSetOverridePolicy : Nat := 19
def codeReleaseOverride : Nat := 20
def codeQueryPoint : Nat := 21

/-- The lane states a command is taken in (R180). -/
def taken (code : Nat) (l : LaneState) : Bool :=
  match code, l with
  | 1, .configuring => false
  | 1, .rewinding => false
  | 1, _ => true
  | 2, _ => true
  | 3, .stopped | 3, .running | 3, .stepping | 3, .holding => true
  | 4, .stopped | 4, .running | 4, .stepping | 4, .holding => true
  | 5, .stopped | 5, .running | 5, .stepping | 5, .holding | 5, .rewinding => true
  | 11, .stopped | 11, .running | 11, .stepping | 11, .holding => true
  | 13, .stopped | 13, .holding => true
  | 14, .stopped | 14, .holding => true
  | 21, .stopped | 21, .running | 21, .stepping | 21, .holding | 21, .rewinding | 21, .faulted => true
  | n, .stopped | n, .running | n, .stepping | n, .holding | n, .rewinding =>
    (6 ≤ n && n ≤ 10) || n == 12 || (15 ≤ n && n ≤ 20)
  | _, _ => false

/-- The descriptor of the slot being processed, where it has been read, its sum is right and it names this command (R179). -/
def State.command (s : State) (code : Nat) : Option (List Byte) :=
  match s.cmd.phase with
  | .fetched (some d) => if s.live && descSumOk d && descCode d == code then some d else none
  | _ => none

/-- A command is judged against the lane state, then acts by its rule (R179, R180). Where the slot holds no such command, the row
does not arise (log 1). -/
def runCommand (code : Nat) (act : List Byte → State → State) (s : State) : Host.Outcome State Fault Refusal :=
  match s.command code with
  | none => .next s
  | some d =>
    if taken code s.lane.lane then .next (closeEvent (act d s)) else .next (closeEvent (complete resRefusedState [] s))

/-- The overflow buffer holds 48 notices (R179). -/
def State.noticesFull (s : State) : Bool := Config.overflowMax ≤ s.ntc.overflow.length

def State.points (s : State) : Nat := s.regions.elim 0 fun g => g.points
def State.statusPoints (s : State) : Nat := s.regions.elim 0 fun g => g.statusPoints

/-- The first offending parameter of a range below `limit`: 1 the first point, 2 the count (R190, log 19). -/
def badRange (first count limit : Nat) : Option Nat :=
  if limit ≤ first then some 1
  else if count = 0 ∨ 16384 < count ∨ limit < first + count then some 2
  else none

/-- The result data of STOP and MARK begin so: byte 48, R in 50..55, the group number in 56..59. -/
def resultClock (b : Nat) (s : State) : List Byte :=
  leBytes 1 b ++ leBytes 1 0 ++ timeBytes s.lane.r ++ leBytes 4 s.lane.group.toNat

/-- 0 taken effect, 1 pending (FORMAT.DESCRIPTOR). -/
def pendingData (b : Bool) : List Byte := leBytes 1 (boolBit b 1)

/-- What keeps the offered group from being admitted (R181, R182): a STOP, MARK, CONFIGURE or UNCONFIGURE that waits, a
validation or map change, and a rewind that is starting. -/
def CmdPhase.blocksAdmit : CmdPhase → Bool
  | .waiting w =>
    (match w with
     | .stop => true
     | .mark => true
     | .configure => true
     | .unconfigure => true
     | .watchSet _ _ => false
     | .watchClear _ => false
     | .hold _ _ => false
     | .query _ => false)
  | .starting _ => true
  | .validating _ _ _ => true
  | .mapChange _ => true
  | .draining => true
  | .idle => false
  | .reading => false
  | .fetched _ => false
  | .capturing _ _ _ => false

/-- The undo step in flight, from its announcement to its boundary (R132). -/
def State.stepInFlight (s : State) : Bool := s.jrn.walk.any fun w => w.phase != .between

/-- The event a waiting command waits for has come (R181). UNCONFIGURE also waits for the answers to the reads its boundary released
(R170, R186), and with them for every other window read forwarded, those taken after the boundary too: the rules name the released ones
alone, and this is the model's choice (DESIGN CHOICE, unsafe, log 55). -/
def State.waitOver (s : State) : WaitCmd → Bool
  | .stop => s.commit.fly.isNone
  | .mark => s.commit.fly.isNone
  | .configure => s.commit.fly.isNone && s.jrn.walk.isNone
  | .unconfigure => s.commit.fly.isNone && !s.stepInFlight && s.path.held.isEmpty && !s.path.windowReadsOut
  | .watchSet _ _ => !(s.commit.flag && s.commit.fly.isSome)
  | .watchClear _ => !(s.commit.flag && s.commit.fly.isSome)
  | .hold _ _ => !s.commit.flag
  | .query _ => !s.commit.flag

/-- A waiting command whose event has come acts before the next commit or undo step begins (R81, R181, log 25). -/
def State.waiterReady (s : State) : Bool :=
  match s.cmd.phase with
  | .waiting w => s.waitOver w
  | _ => false

/-- Capture reads count as reads already forwarded (R190). -/
def State.capturing (s : State) : Bool :=
  match s.cmd.phase with
  | .capturing _ _ _ => true
  | _ => false

end Sys2Proof.Machine
end

