-- ==== Sys2Proof/Machine/Fetch.lean ====
section
/-! DEFINITION. The Channel Front and the journal's own events: FETCH_ISSUE, RECORD_LOAD, FETCH_DISCARDED_RETURN,
JOURNAL_ENTRY_WRITTEN, JOURNAL_WRAP (02, 06). -/

namespace Sys2Proof.Machine

/-- What one step of exec answers. -/
abbrev Stepped := Host.Outcome State Fault Refusal

/-- An event of the part's own: it happens where its condition holds, and else leaves the state as it is (log 1). -/
def event (cond : Bool) (act : State → State) (s : State) : Stepped := if cond then .next (closeEvent (act s)) else .next s

/-! ## Fetching (R31, R34) -/

def Origin.isFetch : Origin → Bool
  | .fetch _ => true
  | _ => false

/-- The lane states in which fetches are issued (R31). -/
def LaneState.fetches : LaneState → Bool
  | .stopped => true
  | .running => true
  | .stepping => true
  | .holding => true
  | .unconfigured => false
  | .configuring => false
  | .rewinding => false
  | .faulted => false

/-- Places of a head buffer in use: fetches in flight, checked records, and discarded fetches whose data has not returned, which
frees their places (R34; the step FETCH_DISCARDED_RETURN of the opcode table). -/
def State.placesUsed (s : State) (c : Chan) : Nat :=
  c.heads.length + (s.front.discarded.filter fun d => d.chan == some c.phys).length

/-- R31: a place is free, the fetch position is not the fill, the lane lets fetches go, and the Channel Front does not wait for a
place in the own-write queue. -/
def State.canFetch (s : State) (c : Chan) : Bool :=
  s.live && s.lane.lane.fetches && s.placesUsed c < Config.headPlaces && c.fetch != c.fill &&
    !s.path.waiting.any fun r => r.origin.isFetch

/-- The address of the slot of a position (R27). -/
def Chan.slotAddr (c : Chan) (p : Pos) : Nat := c.base + 32 * (p.toNat % 2 ^ c.k)

/-- The 32-byte own read of the slot of the fetch position; a place is reserved and the fetch position advances (R31). -/
def issueFetch (i : Nat) (c : Chan) (s : State) : State :=
  let n := s.path.nextOwn
  settle ((genRead (.fetch c.phys) (c.slotAddr c.fetch) 32 s).setChan i fun d =>
    { d with heads := d.heads ++ [.inflight n d.fetch], fetch := d.fetch + 1 })

def execFetchIssue (phys : ChanNo) (s : State) : Stepped :=
  match s.logical phys with
  | none => .next s
  | some i =>
    match s.chanAt i with
    | none => .next s
    | some c => event (s.canFetch c) (issueFetch i c) s

def Front.isDiscarded (fr : Front) (n : Nat) : Bool := fr.discarded.any fun d => d.serial == n

def State.isDiscardedRet (s : State) (r : Ret) : Bool := r.req.origin.isFetch && s.front.isDiscarded r.req.serial

/-- The data of a discarded fetch is dropped unchecked, and its place is free (R34). -/
def dropDiscarded (n : Nat) (s : State) : State :=
  (s.updPath (Path.dropRet (Ret.isFor n))).updFront fun fr =>
    { fr with discarded := fr.discarded.filter fun d => d.serial != n }

def execFetchDiscardedReturn (s : State) : Stepped :=
  match s.path.ret s.isDiscardedRet with
  | none => .next s
  | some r => event (!s.resetAsserted) (dropDiscarded r.req.serial) s

/-! ## Loading a record (R32, R35 to R42) -/

/-- The oldest place that holds no checked record: the next to load (R32). -/
def Chan.nextLoad (c : Chan) : Option (Nat × Pos) :=
  c.heads.findSome? fun p => match p with
    | .inflight n pos => some (n, pos)
    | .checked _ => none

/-- The record checks in order; the first failure rejects (R35 to R39). -/
def State.recordFault (s : State) (c : Chan) (bs : List Byte) : Option Reason :=
  let ts := rawTimestamp bs
  let ct : Int := (ts : Int) + s.offsetOf c
  let kind := rawKind bs
  let p := (rawPoint bs).toNat
  if onesSum bs ≠ 65535 then some .check
  else if c.lastTs.any fun t => ts < t.toNat then some .order
  else if 2 ^ 48 ≤ ts ∨ ct < 0 ∨ (Config.lastTime : Int) < ct ∨ (kind = some .status ∧ 4 ≤ (rawValue bs).toNat) then some .range
  else
    match kind with
    | none => some .kind
    | some .marker => none
    | some .alive => none
    | some .status =>
      if s.points ≤ p then some .point else if s.statusPoints ≤ p then some .kind else none
    | some .analog =>
      if s.points ≤ p then some .point else if p < s.statusPoints then some .kind else none

/-- An accepted record: its last accepted times, and the sequence check (R41, R42). -/
def acceptRecord (i : Nat) (ts : Time) (ct : Time) (seq : Word32) (arch : BitVec 64) (s : State) : State :=
  match s.chanAt i with
  | none => s
  | some c =>
    let s1 := s.setChan i fun d =>
      { d with lastTs := some ts, lastCt := some (ct.toNat : Int), expSeq := some (seq + 1) }
    match c.expSeq with
    | none => s1
    | some e => if e = seq then s1 else post { s1.chanNotice i c (.seqBreak e seq) with arch := some arch } s1

/-- The place of a fetch leaves the head buffer. -/
def freePlace (i n : Nat) (s : State) : State :=
  s.setChan i fun c => { c with heads := c.heads.filter fun p => match p with
    | .inflight m _ => m != n
    | .checked _ => true }

/-- A record that stays takes its fetch's place (R41). -/
def keepRecord (i n : Nat) (r : Rec) (s : State) : State :=
  s.setChan i fun c => { c with heads := c.heads.map fun p => match p with
    | .inflight m q => if m = n then .checked r else .inflight m q
    | .checked x => .checked x }

/-- An accepted record is disposed of by its kind, its time and F (R41). -/
def disposeRecord (i n : Nat) (r : Rec) (s : State) : State :=
  if r.kind = .alive then
    let s1 := handLoose i r.pos (.noPoint (BitVec.ofNat 6 i) r.pos) (freePlace i n s)
    if s.lane.f.toNat ≤ r.ct.toNat then rejoin i r.ct s1 else s1
  else if r.ct.toNat < s.lane.f.toNat then lateRecord i r (freePlace i n s)
  else rejoin i r.ct (keepRecord i n r s)

/-- A fetch has returned and every older place has loaded: the record is checked, then rejected or disposed of (R32). -/
def loadRecord (i : Nat) (c : Chan) (n : Nat) (pos : Pos) (r : Ret) (s : State) : State :=
  let s0 := s.updPath (Path.dropRet (Ret.isFor n))
  match r.status with
  | .memerr => rejectRecord i pos .memory none none (freePlace i n s0)
  | .ok =>
    let bs := r.data
    match s0.recordFault c bs, rawKind bs with
    | some why, _ => rejectRecord i pos why (some (rawPoint bs)) (some (rawArchive bs)) (freePlace i n s0)
    | none, none => s
    | none, some k =>
      let ts : Time := BitVec.ofNat 48 (rawTimestamp bs)
      let ct : Time := BitVec.ofInt 48 ((rawTimestamp bs : Int) + s0.offsetOf c)
      let rc : Rec := { pos := pos, ts := ts, ct := ct, kind := k, point := rawPoint bs, quality := rawQuality bs,
                        value := rawValue bs, arch := rawArchive bs }
      disposeRecord i n rc (acceptRecord i ts ct (rawSequence bs) (rawArchive bs) s0)

def execRecordLoad (phys : ChanNo) (s : State) : Stepped :=
  match s.logical phys with
  | none => .next s
  | some i =>
    match s.chanAt i with
    | none => .next s
    | some c =>
      match c.nextLoad with
      | none => .next s
      | some (n, pos) =>
        match s.path.ret (Ret.isFor n) with
        | none => .next s
        | some r => event s.live (fun u => settle (loadRecord i c n pos r u)) s

/-! ## Journal writes and the wrap (R28, R29, R125, R126) -/

def Ret.isLooseWrite (r : Ret) : Bool :=
  r.status == .ok && (match r.req.origin with
    | .journalLoose _ _ => true
    | _ => false)

/-- The write of a loose entry has completed: the record no longer holds its channel's cursor back (R28). In a FAULTED lane the cursor can
so pass records whose fetches were discarded (log 48). -/
def looseWritten (phys : ChanNo) (tok : Nat) (s : State) : State :=
  match s.logical phys with
  | none => s
  | some i => moveCursor (s.setChan i fun c => { c with unj := c.unj.filter fun u => u.1 != tok }) i

def execJournalEntryWritten (s : State) : Stepped :=
  match s.path.ret Ret.isLooseWrite with
  | none => .next s
  | some r =>
    match r.req.origin with
    | .journalLoose phys tok =>
      event (!s.resetAsserted) (fun u => looseWritten phys tok (u.updPath (Path.dropRet (Ret.isFor r.req.serial)))) s
    | _ => .next s

/-- A mark older than the new oldest is lost: it leaves the bottom of the stack and is posted (R126). -/
def loseMarks (old : Pos) : List Mark → State → State
  | [], s => s.updJrn fun j => { j with marks := [] }
  | m :: rest, s =>
    if m.pos = old then loseMarks old rest (postLane (.markLost false m.r m.group m.pos) s).markDue
    else s.updJrn fun j => { j with marks := m :: rest }

/-- What the overwritten entry changes (R125): an entry that names a channel moves its retain, and an advance rewrites the channel's part
of the status block (R201); a GROUP_END lowers the count and sets the whole-span flag, any other kind clears it; an entry that could not
be read lowers the count and clears the flag. -/
def overwriteOldest (e : Option JEntry) (failed : Bool) (s : State) : State :=
  let isGe := e.any JEntry.isGroupEnd
  let s1 := s.updJrn fun j =>
    { j with
      oldest := j.oldest + 1, wrapped := true, wholeSpan := isGe
      geCount := if isGe || failed then j.geCount - 1 else j.geCount
      geps := j.geps.filter fun p => p != j.oldest }
  match e.bind JEntry.named with
  | none => s1
  | some (ch, x) =>
    let s2 := s1.setChan ch.toNat (Chan.advanceRetain x)
    if (s1.chanAt ch.toNat).any fun c => (c.advanceRetain x).retain != c.retain then s2.markDue else s2

/-- The read of the oldest entry has completed: the oldest advances and the entry that waits is placed (R125, R126). -/
def wrapJournal (g : Regions) (r : Ret) (s : State) : State :=
  let failed := r.status == .memerr
  let s1 := (s.updPath (Path.dropRet (Ret.isFor r.req.serial))).updJrn fun j => { j with wrapRead := none }
  let s2 := overwriteOldest (if failed then none else JEntry.decode r.data) failed s1
  let s3 := loseMarks s.jrn.oldest s2.jrn.marks s2
  match s3.jrn.inq with
  | [] => s3
  | h :: rest => pumpJrn g rest (placeEntry g h s3)

/-- A lane that goes FAULTED leaves the journal as it stands (R144): the read of the oldest entry no longer overwrites it, and the
entries that wait are not placed (log 12). -/
def stopWrap (r : Ret) (s : State) : State :=
  (s.updPath (Path.dropRet (Ret.isFor r.req.serial))).updJrn fun j => { j with wrapRead := none, inq := [] }

/-- The read of the oldest entry has returned. -/
def oldestReturned (g : Regions) (r : Ret) (s : State) : State :=
  if s.lane.lane = .faulted then stopWrap r s else wrapJournal g r s

def execJournalWrap (s : State) : Stepped :=
  match s.jrn.wrapRead, s.regions with
  | some n, some g =>
    (match s.path.ret (Ret.isFor n) with
     | none => .next s
     | some r => event (!s.resetAsserted) (oldestReturned g r) s)
  | _, _ => .next s

end Sys2Proof.Machine
end

