-- ==== Sys2Proof/Machine/MergeUnit.lean ====
section
/-! DEFINITION. The Merge Unit's own steps and the admission of groups: STARVATION_EXPIRY, PACE_ADVANCE, GROUP_ADMIT,
FORMATION_PULL, FILTER_WORD_READ, and what a µs of wall time does (03, 05). -/

namespace Sys2Proof.Machine

/-! ## Starvation (R74, R75) -/

/-- A blocking channel that is not an anchor becomes LAGGING and posts its known time (R47, R75). -/
def lagChan (s : State) (i : Nat) : State :=
  match s.chanAt i with
  | none => s
  | some c =>
    if c.anchor then s
    else
      let s1 := (s.setChan i fun d => { d with lagging := true, st := .lagging }).markDue
      post (s1.chanNotice i c (.lagging (shown c.known))) s1

/-- The logical numbers of the blocking channels (R73). -/
def State.blockingSet (s : State) : List Nat :=
  (List.range s.front.chans.length).filter fun i => (s.chanAt i).any s.blockingChan

/-- A blocking channel is an anchor (R75, R112). -/
def State.anchorBlocks (s : State) : Bool := s.front.chans.any fun c => c.anchor && s.blockingChan c

/-- The timer has reached its limit (R74). -/
def State.starved (s : State) : Bool :=
  s.live && s.merge.limit != 0 && s.blocked && s.merge.limit ≤ s.merge.starve

/-- The blocking channels are taken as they stand (R75). -/
def expireStarvation (s : State) : State :=
  let s1 := s.blockingSet.foldl lagChan (s.updMerge fun m => { m with starve := 0 })
  settle (if s.anchorBlocks then holdOn .anchorStarved s1 else s1)

def execStarvationExpiry (s : State) : Stepped := event s.starved expireStarvation s

/-! ## Pace (R103) -/

/-- C advances by the whole 1,024s of the accumulator, not past its limit. -/
def Timeline.advance (limit : Int) (t : Timeline) : Timeline :=
  let whole := t.acc / 1024
  if limit ≤ (t.c.toNat : Int) then { t with acc := 0 }
  else if limit < ((t.c.toNat + whole : Nat) : Int) then { t with c := BitVec.ofInt 48 limit, acc := 0 }
  else if limit = ((t.c.toNat + whole : Nat) : Int) then { t with c := BitVec.ofInt 48 limit, acc := 0 }
  else { t with c := BitVec.ofNat 48 (t.c.toNat + whole), acc := t.acc % 1024 }

def execPaceAdvance (s : State) : Stepped :=
  event (s.live && s.paced && 1024 ≤ s.lane.acc) (fun u => settle (u.updLane (Timeline.advance u.paceLimit))) s

/-- The accumulator gains p at a µs of wall time; it stays 0 while C stands at or above its limit (R103). -/
def Timeline.gain (limit : Int) (t : Timeline) : Timeline :=
  if limit ≤ (t.c.toNat : Int) then { t with acc := 0 } else { t with acc := t.acc + t.pace }

def paceTick (s : State) : State := if s.paced then s.updLane (Timeline.gain s.paceLimit) else s

/-- A ms of wall time has elapsed: the starvation count rises while the lane is blocked (R74). -/
def starveTick (s : State) : State :=
  if s.blocked && s.merge.limit != 0 && s.merge.starve < s.merge.limit then
    s.updMerge fun m => { m with starve := m.starve + 1 }
  else s

/-- The time base moves (log 5). -/
def State.setWall (n : Nat) (s : State) : State := { s with wallUs := n }

/-- The blocking set is evaluated again (R112, log 33); a lane that resumes meets its standing tests at once (R113). -/
def anchorResume (s : State) : State :=
  let s1 := anchorClear s
  if s1.lane.lane = s.lane.lane then s1 else laneTests s1

/-- One µs of wall time where the part runs: the pace gains, the blocking set is evaluated again, and at a ms the starvation count
gains. -/
def tickLive (s : State) : State :=
  let s1 := anchorResume (paceTick s)
  closeEvent (if s.wallUs = 0 then starveTick s1 else s1)

/-- One µs of wall time (R74, R103, log 4, log 5). -/
def tick (s : State) : State :=
  let s1 := s.setWall ((s.wallUs + 1) % 1000)
  if s.live then tickLive s1 else s1

/-! ## Admission (R102, R104) -/

/-- The stop time does not hold a group of time Tg back, and in PACED running C has reached it (R102). -/
def State.mayAdmit (s : State) (tg : Nat) : Bool :=
  !(s.lane.stopTime.any fun st => st.toNat < tg) && (!s.paced || tg ≤ s.lane.c.toNat)

/-- What keeps every group from being admitted: the lane does not run, or a command acts first (R102, R181, R182). -/
def State.admits (s : State) : Bool := s.live && s.running && !s.cmd.phase.blocksAdmit && !s.waiterReady

/-- The late group is admitted with time R and passes to the Commit Unit at once (R72, R80). -/
def admitLate (s : State) : State :=
  settle ((s.updStager fun g => { g with cur := g.late, late := [] }).updCommit fun c =>
    { c with fly := some { late := true, split := false, tg := s.lane.r, phase := .announced, done := 0, reading := none,
                           writes := [], hits := List.replicate 32 none } })

/-- A timed group is admitted and begins to form; in FREE running and in STEPPING C takes its Tg (R56, R104). -/
def admitTimed (tg : Nat) (s : State) : State :=
  let s1 := if s.paced then s
    else s.updLane fun t => { t with c := if t.c.toNat < tg then BitVec.ofNat 48 tg else t.c }
  settle (s1.updCommit fun c =>
    { c with fly := some { late := false, split := false, tg := BitVec.ofNat 48 tg, phase := .forming, done := 0,
                           reading := none, writes := [], hits := List.replicate 32 none } })

def execGroupAdmit (s : State) : Stepped :=
  match s.offered with
  | none => .next s
  | some .late => event s.admits admitLate s
  | some (.timed tg) => event (s.admits && s.mayAdmit tg) (admitTimed tg) s

/-! ## Formation (R56 to R60) -/

/-- The timed group that forms (R55). -/
def State.forming (s : State) : Option Flight := s.commit.fly.filter fun f => f.phase == .forming

/-- The end of the forming group's window (R56). -/
def State.windowEnd (s : State) (f : Flight) : Nat := f.tg.toNat + s.merge.quantum

/-- The least candidate: the least timed item, when it lies below Tg + Q (R56). -/
def State.candidate (s : State) (f : Flight) : Option (Key × Source) :=
  (leastItem s.timedItems).filter fun x => x.1.time < s.windowEnd f

/-- A FETCHING channel may still deliver a record that comes first (R57). -/
def State.fetchingUpTo (s : State) (t : Int) : Bool := s.front.chans.any fun c => c.calc == .fetching && c.known ≤ t

/-- Formation ends and the group passes to the Commit Unit (R57, R80). -/
def endFormation (split : Bool) (s : State) : State :=
  s.updCommit fun c => { c with fly := c.fly.map fun f => { f with phase := .announced, split := split } }

/-- A pull needs a place and none is free: the first part of a split window (R60). -/
def splitGroup (s : State) : State :=
  match s.commit.fly with
  | none => s
  | some f => endFormation true (post (s.notice (.groupSplit f.tg (BitVec.ofNat 16 s.stager.cur.length))) s)

/-- An item takes a place of the stager (R58). -/
def stage (it : Item) (s : State) : State := s.updStager fun g => { g with cur := g.cur ++ [it] }

/-- A dwell entry leaves the table and becomes a release item (R58, R69). -/
def DwellEntry.releaseItem (e : DwellEntry) : Item :=
  { body := .release e.point e.item.value e.item.quality, time := e.item.time, chan := e.item.chan, pos := e.item.pos,
    keyTime := e.release, late := false }

def removeDwell (p : PointNo) (d : List DwellEntry) : List DwellEntry := d.filter fun e => e.point != p

def findDwell (d : List DwellEntry) (p : PointNo) : Option DwellEntry := d.find? fun e => e.point == p

def pullRelease (e : DwellEntry) (s : State) : State :=
  if s.stagerRoom then
    stage e.releaseItem (s.updMerge fun m => { m with dwell := removeDwell e.point m.dwell })
  else splitGroup s

/-- A head record leaves its head buffer for the stager (R33, R58). -/
def pullItem (i : Nat) (r : Rec) (it : Item) (s : State) : State :=
  if s.stagerRoom then stage it (takeChecked i r.pos s) else splitGroup s

/-! ## The chatter filter (R64 to R68) -/

/-- The dwell of a class, R16, R65. -/
def dwellTime (c : BitVec 2) : Nat :=
  match c.toNat with
  | 0 => 0
  | 1 => 2000
  | 2 => 8000
  | _ => 32000

/-- The last record or release item of the forming group for a point (R64). -/
def Item.sets (p : PointNo) (it : Item) : Option Word32 :=
  match it.body with
  | .record q v _ _ _ => if q = p then some v else none
  | .release q v _ => if q = p then some v else none
  | .marker _ _ _ => none
  | .chatter _ _ _ => none

/-- The standing value, where it needs no read (R64). -/
def State.standing (s : State) (p : PointNo) : Option Word32 :=
  match s.stager.cur.reverse.findSome? (Item.sets p) with
  | some v => some v
  | none => ((s.dirAt p).bind (·.lastChange)).map (·.value)

/-- The held item a record makes (R65, R67). -/
def Rec.held (r : Rec) (i : Nat) : HeldItem :=
  { value := r.value, quality := r.quality, time := r.ct, chan := BitVec.ofNat 6 i, pos := r.pos }

/-- A change is held: a dwell entry, and a HELD loose entry (R65). -/
def holdChange (i : Nat) (r : Rec) (cls : BitVec 2) (s : State) : State :=
  let rel := min (r.ct.toNat + dwellTime cls) Config.lastTime
  let e : DwellEntry := { point := r.point, item := r.held i, release := BitVec.ofNat 48 rel }
  handLoose i r.pos (.held (BitVec.ofNat 6 i) r.pos r.point r.value r.quality r.ct)
    ((takeChecked i r.pos s).updMerge fun m => { m with dwell := m.dwell ++ [e] })

/-- The table is full: the change is taken UNFILTERED, and DWELL_FULL is posted (R65). -/
def takeUnfiltered (i : Nat) (r : Rec) (s : State) : State :=
  if s.stagerRoom then
    match s.chanAt i with
    | none => s
    | some c =>
      let s1 := stage (r.item i false true) (takeChecked i r.pos s)
      post { s1.chanNotice i c .dwellFull with point := some r.point, arch := some r.arch } s1
  else splitGroup s

/-- A revert: the entry leaves the table and a chatter item carries what it held (R66). -/
def revertChange (i : Nat) (r : Rec) (e : DwellEntry) (s : State) : State :=
  if s.stagerRoom then
    stage { body := .chatter r.point e.item e.release, time := r.ct, chan := BitVec.ofNat 6 i, pos := r.pos, keyTime := r.ct,
            late := false }
      ((takeChecked i r.pos s).updMerge fun m => { m with dwell := removeDwell r.point m.dwell })
  else splitGroup s

/-- A supersede: the entry keeps its release time, and a SUPERSEDED loose entry saves the item replaced (R67). -/
def supersedeChange (i : Nat) (r : Rec) (e : DwellEntry) (s : State) : State :=
  handLoose i r.pos (.superseded (BitVec.ofNat 6 i) r.pos r.point e.item)
    ((takeChecked i r.pos s).updMerge fun m =>
      { m with dwell := m.dwell.map fun d => if d.point = r.point then { d with item := r.held i } else d })

/-- A repeat: the record is consumed and journaled DUPLICATE with the word as it stands (R68). -/
def repeatChange (i : Nat) (r : Rec) (w : PointWord) (s : State) : State :=
  handLoose i r.pos (.duplicate (BitVec.ofNat 6 i) r.pos r.point w) (takeChecked i r.pos s)

/-- The filter's decision against a standing value, for a record that does not repeat the held change (R65 to R67). -/
def filterDecision (i : Nat) (r : Rec) (cls : BitVec 2) (standing : Word32) (s : State) : State :=
  match findDwell s.merge.dwell r.point with
  | none =>
    if r.value = standing then pullItem i r (r.item i false false) s
    else if s.merge.dwell.length < Config.dwellMax then holdChange i r cls s
    else takeUnfiltered i r s
  | some e => if r.value = standing then revertChange i r e s else supersedeChange i r e s

/-- The filter reads the point's word (R64, R68). -/
def readFilter (i : Nat) (r : Rec) (cls : BitVec 2) (repeats : Bool) (s : State) : State :=
  let n := s.path.nextOwn
  (genRead .filterRead (s.wordAddr r.point) 8 s).updMerge fun m =>
    { m with filter := some { serial := n, chan := BitVec.ofNat 6 i, cls := cls, repeats := repeats } }

/-- A STATUS record of a filtered point reaches the filter (R58, R64, R68). -/
def filterRecord (i : Nat) (r : Rec) (cls : BitVec 2) (s : State) : State :=
  if (findDwell s.merge.dwell r.point).any fun e => e.item.value == r.value then readFilter i r cls true s
  else
    match s.standing r.point with
    | some v => filterDecision i r cls v s
    | none => readFilter i r cls false s

/-- A pulled head record becomes an item or goes to the filter (R58). -/
def pullHead (i : Nat) (r : Rec) (s : State) : State :=
  let cls := ((s.dirAt r.point).map (·.dwell)).getD 0
  if r.kind = .status ∧ (cls ≠ 0 ∨ (findDwell s.merge.dwell r.point).isSome) then filterRecord i r cls s
  else pullItem i r (r.item i false false) s

/-- One pull, or the end of formation (R56 to R60). -/
def pull (c : Option (Key × Source)) (s : State) : State :=
  match c with
  | none => endFormation false s
  | some (_, .head i r) => pullHead i r s
  | some (_, .dwell e) => pullRelease e s

/-- Formation does not wait for a FETCHING channel (R57), nor for a read of its filter. -/
def State.mayPull (s : State) (f : Flight) : Bool :=
  s.merge.filter.isNone &&
    (match s.candidate f with
     | some x => !s.fetchingUpTo x.1.time
     | none => !s.fetchingUpTo ((s.windowEnd f : Int) - 1))

def execFormationPull (s : State) : Stepped :=
  match s.forming with
  | none => .next s
  | some f => event (s.live && s.mayPull f) (fun u => settle (pull (s.candidate f) u)) s

/-- The filter's read has returned and its decision is completed (R64, R68). -/
def filterRead (op : FilterOp) (r : Ret) (s : State) : State :=
  let i := op.chan.toNat
  let s1 := (s.updPath (Path.dropRet (Ret.isFor op.serial))).updMerge fun m => { m with filter := none }
  let w := PointWord.read r.data
  match (s1.chanAt i).bind Chan.head with
  | none => s1
  | some rc => if op.repeats then repeatChange i rc w s1 else filterDecision i rc op.cls w.value s1

def execFilterWordRead (s : State) : Stepped :=
  match s.merge.filter with
  | none => .next s
  | some op =>
    match s.path.ret (Ret.isFor op.serial) with
    | none => .next s
    | some r => event (s.live && r.status == .ok) (fun u => settle (filterRead op r u)) s

end Sys2Proof.Machine
end

