-- ==== Sys2Proof/Machine/CommitUnit.lean ====
section
/-! DEFINITION. The Commit Unit: COMMIT_BEGIN, COMMIT_ITEM, COMMIT_BOUNDARY, OWN_ACCESS_ERROR, COMMIT_RESTORED (04, 05). -/

namespace Sys2Proof.Machine

/-! ## Taking items (R80, R82) -/

/-- The group in flight changes. -/
def State.updFly (s : State) (f : Flight → Flight) : State := s.updCommit fun c => { c with fly := c.fly.map f }

/-- The point an item names, where its word is written (R82, R87). -/
def Item.point (it : Item) : Option PointNo :=
  match it.body with
  | .record p _ _ _ _ => some p
  | .release p _ _ => some p
  | .chatter p _ _ => some p
  | .marker _ _ _ => none

/-- The word the newest earlier write of a list wrote to a point (R82). -/
def writtenWord (ws : List WriteRec) (p : PointNo) : Option PointWord := (ws.find? fun w => w.point == p).map (·.newWord)

def Flight.kind (f : Flight) : GroupKind := if f.late then .late else if f.split then .split else .timed

/-- The GROUP_END entry (R89). -/
def State.groupEnd (s : State) (f : Flight) : JEntry :=
  .groupEnd s.lane.group f.kind f.tg s.lane.r s.lane.f (BitVec.ofNat 16 s.stager.cur.length)

/-- The next item's old word is read, unless the list of writes has it or it names no point; after the last item the GROUP_END is
handed in (R82, R89). -/
def nextItem (s : State) : State :=
  match s.commit.fly with
  | none => s
  | some f =>
    match s.stager.cur[f.done]? with
    | none => (handIn { entry := s.groupEnd f, src := .group } s).updFly fun g => { g with phase := .ended }
    | some it =>
      match it.point with
      | none => s
      | some p =>
        if (writtenWord f.writes p).isSome then s
        else
          let n := s.path.nextOwn
          (genRead .commitRead (s.wordAddr p) 8 s).updFly fun g => { g with reading := some n }

/-- The announced group (R80). -/
def State.announced (s : State) : Option Flight := s.commit.fly.filter fun f => f.phase == .announced

/-- The commit begins: the flag is set and the first item taken (R80); the match counts are 0 (R94). -/
def beginCommit (s : State) : State :=
  nextItem ((s.updCommit fun c => { c with flag := true }).updFly fun f =>
    { f with phase := .committing, done := 0, writes := [], reading := none, hits := List.replicate 32 none })

/-- The reads already forwarded have been answered (R80, R190), and no waiting command acts first (log 25). -/
def State.readsDone (s : State) : Bool := !s.path.windowReadsOut && !s.capturing && !s.waiterReady

def execCommitBegin (s : State) : Stepped := event (s.live && s.announced.isSome && s.readsDone) beginCommit s

/-! ## One item (R82 to R88, R92, R94) -/

/-- A notice of an item names both channel numbers. -/
def State.itemNotice (s : State) (it : Item) (b : NBody) : Notice :=
  { s.notice b with time := it.time, chan := (s.chanAt it.chan.toNat).map fun c => (c.phys, it.chan) }

/-- The own write of a point word, kept in the list of writes with the old word and directory fields (R82). -/
def commitWord (p : PointNo) (old new : PointWord) (s : State) : State :=
  let d := s.dirAt p
  (genWrite .commitWrite (s.wordAddr p) new.toBytes s).updFly fun f =>
    { f with
      writes := { point := p, oldWord := old, newWord := new, oldChange := d.bind (·.lastChange),
                  oldGood := d.bind (·.lastGood) } :: f.writes }

/-- An entry of the group is handed to the journal (R88). -/
def handGroup (e : JEntry) (s : State) : State := handIn { entry := e, src := .group } s

/-- The word an APPLIED item writes (R83, R84). -/
def appliedWord (old : PointWord) (v : Word32) (q : BitVec 8) (late unfiltered : Bool) (ch : ChanNo) (k : PKind)
    (group : Word32) : PointWord :=
  { value := v
    quality := q ||| (if late then qLate else 0) ||| (if unfiltered then qUnfiltered else 0)
    count := if v = old.value then old.count else old.count + 1
    source := sourceOf ch k
    phase := group.setWidth 8 }

/-- The directory fields an APPLIED item sets (R14, R15, R83). -/
def DirEntry.apply (t : Time) (v : Word32) (ch : ChanNo) (q : BitVec 8) (e : DirEntry) : DirEntry :=
  { e with lastChange := some { time := t, value := v, chan := ch }, lastGood := if clean q then some v else e.lastGood }

/-- A ONCE override ends at an APPLIED item of its point, and OVERRIDE_ENDED is posted (R92). -/
def endOnce (it : Item) (p : PointNo) (s : State) : State :=
  match findOvr s.ovr p with
  | none => s
  | some o =>
    match o.policy with
    | .pin => s
    | .once =>
      post { s.itemNotice it (.overrideEnded o.value o.originR o.originGroup) with point := some p }
        (s.setOvr (removeOvr s.ovr p))

/-- A slot's condition holds of an APPLIED item (R94). -/
def WatchCond.holds (old new : PointWord) : WatchCond → Bool
  | .anyChange => new.value != old.value
  | .equals v => new.value == v
  | .qualitySet q => new.quality &&& q != 0

def countHit (it : Item) (v : Word32) (arch : Option (BitVec 64)) : Option Hit → Option Hit
  | none => some { count := 1, time := it.time, value := v, chan := it.chan, arch := arch }
  | some h => some { h with count := h.count + 1 }

/-- The slots in use on the point are evaluated (R94). -/
def evalWatches (ws : List (Option Watch)) (it : Item) (p : PointNo) (old new : PointWord) (arch : Option (BitVec 64))
    (hits : List (Option Hit)) : List (Option Hit) :=
  hits.mapIdx fun i h =>
    match (ws[i]?).join with
    | none => h
    | some w => if w.point == p && w.cond.holds old new then countHit it new.value arch h else h

/-- An APPLIED item: word, entry, directory, ONCE override, watches, in that order (R82 to R84, R92, R94). -/
def applyItem (it : Item) (p : PointNo) (v : Word32) (q : BitVec 8) (unfiltered fromDwell : Bool)
    (arch : Option (BitVec 64)) (old : PointWord) (s : State) : State :=
  let d := s.dirAt p
  let k := (d.map (·.kind)).getD .status
  let new := appliedWord old v q it.late unfiltered it.chan k s.lane.group
  let lead : BitVec 16 := if fromDwell then leadField (it.keyTime.toNat - it.time.toNat) else 0
  let e : JEntry := .applied it.chan it.pos p it.late unfiltered fromDwell
    ((d.bind (·.lastChange)).map fun c => (c.time, c.chan)) (d.bind (·.lastGood)) old lead
  let s1 := (handGroup e (commitWord p old new s)).setDirAt p (DirEntry.apply it.time v it.chan q)
  (endOnce it p s1).updFly fun f => { f with hits := evalWatches s.commit.watches it p old new arch f.hits }

/-- The duplicate test (R61). -/
def isDuplicate (w : Nat) (v : Word32) (ch : ChanNo) (t : Time) : Option LastChange → Bool
  | none => false
  | some c => v == c.value && ch != c.chan && t.toNat ≤ c.time.toNat + w && c.time.toNat ≤ t.toNat + w

/-- A record item is APPLIED, or is a DUPLICATE: the old word with CORROBORATED (R61, R85). -/
def commitRecord (it : Item) (p : PointNo) (v : Word32) (q : BitVec 8) (arch : BitVec 64) (unfiltered : Bool)
    (old : PointWord) (s : State) : State :=
  if isDuplicate s.merge.window v it.chan it.time ((s.dirAt p).bind (·.lastChange)) then
    handGroup (.duplicate it.chan it.pos p old) (commitWord p old { old with quality := old.quality ||| qCorroborated } s)
  else applyItem it p v q unfiltered false (some arch) old s

/-- A chatter item: the old word with CHATTER (R86). -/
def commitChatter (it : Item) (p : PointNo) (h : HeldItem) (release : Time) (old : PointWord) (s : State) : State :=
  handGroup (.chatter it.chan it.pos p old h (leadField (release.toNat - h.time.toNat)))
    (commitWord p old { old with quality := old.quality ||| qChatter } s)

/-- A marker item: its entry and its notice (R87). -/
def commitMarker (it : Item) (p : PointNo) (v : Word32) (arch : BitVec 64) (s : State) : State :=
  post { s.itemNotice it (.marker v) with point := some p, arch := some arch } (handGroup (.marker it.chan it.pos) s)

/-- One item, with its old word (R82). -/
def commitOne (it : Item) (old : PointWord) (s : State) : State :=
  match it.body with
  | .record p v q arch unf => commitRecord it p v q arch unf old s
  | .release p v q => applyItem it p v q false true none old s
  | .chatter p h rel => commitChatter it p h rel old s
  | .marker p v arch => commitMarker it p v arch s

/-- The Commit Unit's requests that wait for a place in the own-write queue hold it up (R171). -/
def Origin.isCommit : Origin → Bool
  | .commitRead => true
  | .commitWrite => true
  | _ => false

/-- The item to take, and its old word once that is obtained (R82); a marker item needs none. -/
def State.readyItem (s : State) (f : Flight) : Option (Item × PointWord) :=
  match s.stager.cur[f.done]? with
  | none => none
  | some it =>
    match it.point with
    | none => some (it, PointWord.ofBytes [])
    | some p =>
      match writtenWord f.writes p with
      | some w => some (it, w)
      | none =>
        match f.reading with
        | none => none
        | some n =>
          match s.path.ret (Ret.isFor n) with
          | none => none
          | some r => if r.status = .ok then some (it, PointWord.read r.data) else none

def State.committing (s : State) : Option Flight := s.commit.fly.filter fun f => f.phase == .committing

/-- The read of the old word has been acted on. -/
def clearReading (f : Flight) (s : State) : State :=
  match f.reading with
  | none => s
  | some n => (s.updPath (Path.dropRet (Ret.isFor n))).updFly fun g => { g with reading := none }

def takeItem (f : Flight) (it : Item) (old : PointWord) (s : State) : State :=
  nextItem ((commitOne it old (clearReading f s)).updFly fun g => { g with done := g.done + 1 })

/-- COMMIT_ITEM. The Commit Unit stops with the answer MEMERR to an access of the commit: it takes no further item before OWN_ACCESS_ERROR
acts on the answer (R96). -/
def execCommitItem (s : State) : Stepped :=
  match s.committing with
  | none => .next s
  | some f =>
    match s.readyItem f with
    | none => .next s
    | some (it, old) => event (s.live && !s.faultComes && !s.path.waiting.any fun r => r.origin.isCommit) (takeItem f it old) s

/-! ## The boundary (R81, R90, R95, R108) -/

/-- The clock values by the group's kind (R90); the group number is plus 1. -/
def Timeline.advanceGroup (f : Flight) (q : Nat) (t : Timeline) : Timeline :=
  let n := { t with group := t.group + 1 }
  match f.kind with
  | .late => n
  | .split => { n with r := f.tg, f := f.tg }
  | .timed =>
    let e := f.tg.toNat + q
    { n with r := f.tg, f := if e ≤ Config.lastTime then (if t.f.toNat < e then BitVec.ofNat 48 e else t.f) else f.tg }

/-- WATCH_HIT of one slot, with the number of the group committed (R95). -/
def postHit (f : Flight) (group : Word32) (s : State) (slot : Nat) : State :=
  match (f.hits[slot]?).join, (s.commit.watches[slot]?).join with
  | some h, some w =>
    post { time := h.time, group := group, point := some w.point,
           chan := (s.chanAt h.chan.toNat).map fun c => (c.phys, h.chan), arch := h.arch,
           body := .watchHit (BitVec.ofNat 5 slot) (BitVec.ofNat 16 h.count) h.value } s
  | _, _ => s

/-- A slot that matched has action HALT (R95). -/
def haltMatched (ws : List (Option Watch)) (hits : List (Option Hit)) : Bool :=
  (List.range 32).any fun i => (hits[i]?).join.isSome && ((ws[i]?).join.any fun w => w.halt)

/-- Step 1 of R108: the stop count (R114). -/
def countStop (s : State) : State × Bool :=
  if s.lane.stopCount = 0 then (s, false)
  else if s.lane.stopCount = 1 then
    ((postLane (.stopCount s.lane.c) s).updLane fun t => { t with stopCount := t.reload }, true)
  else (s.updLane fun t => { t with stopCount := t.stopCount - 1 }, false)

/-- Step 2 of R108: the step count; the flag says that the steps are spent (R106). -/
def countStep (s : State) : State × Bool :=
  if s.lane.lane = .stepping then
    (s.updLane fun t => { t with steps := t.steps - 1, stepped := t.stepped + 1 }, s.lane.steps ≤ 1)
  else (s, false)

/-- A STOP waits (R107, R108). -/
def State.stopWaits (s : State) : Bool := s.cmd.phase == .waiting .stop

/-- Steps spent: the lane stops and STEP_DONE is posted (R106). -/
def stepDone (s : State) : State :=
  let s1 := stopLane s
  postLane (.stepDone (BitVec.ofNat 16 s1.lane.stepped) s1.lane.c) s1

/-- Step 6 of R108. -/
def decideBoundary (count spent watch full : Bool) (s : State) : State :=
  if s.stopWaits then stopLane s
  else if spent then stepDone s
  else if s.historyEnded then endHistory s
  else
    let s1 := if count then holdOn .stopCount s else s
    let s2 := if watch then holdOn .watch s1 else s1
    if full then holdOn .noticeFull s2 else s2

/-- The Timeline Controller's boundary handling, steps 1 to 6 (R108). -/
def handleBoundary (watch : Bool) (s : State) : State :=
  let a := countStop s
  let b := countStep a.1
  let full := !b.1.ntc.overflow.isEmpty
  decideBoundary a.2 b.2 watch full (recomputeAll (transferSkews (transferSettings b.1)))

/-- The clock values advance, the group's items leave, cursors move, and checked records are judged against a risen F (R41, R90). -/
def advanceGroup (f : Flight) (s : State) : State :=
  let s1 := moveCursors ((s.updLane (Timeline.advanceGroup f s.merge.quantum)).updStager fun g => { g with cur := [] })
  if s.lane.f.toNat < s1.lane.f.toNat then rejudgeAll s1 else s1

/-- The flag clears and the held reads are forwarded (R81, R169). -/
def clearFlight (s : State) : State :=
  (s.updCommit fun c => { c with flag := false, fly := none }).updPath (Path.release false)

/-- The boundary of a commit as one event (R81, R95, R108). -/
def commitBoundary (f : Flight) (s : State) : State :=
  let s1 := applySets (recomputeAll (clearFlight (advanceGroup f s)))
  let s2 := (List.range 32).foldl (postHit f s.lane.group) s1
  (settle (handleBoundary (haltMatched s.commit.watches f.hits) s2)).markDue

/-- The commit's own accesses (R81). -/
def Origin.isGroup : Origin → Bool
  | .commitRead => true
  | .commitWrite => true
  | .journalGroup => true
  | _ => false

/-- Every own access of the commit has been answered OK, its GROUP_END among them (R81). -/
def State.commitDone (s : State) : Bool :=
  !s.path.busy Origin.isGroup && !s.jrn.inq.any fun h => h.src == .group

def State.endedFlight (s : State) : Option Flight := s.commit.fly.filter fun f => f.phase == .ended

def execCommitBoundary (s : State) : Stepped :=
  match s.endedFlight with
  | none => .next s
  | some f => event (s.live && s.commitDone) (commitBoundary f) s

/-! ## Errors of own accesses (R120, R121, R199) -/

/-- A notice record write has failed: the ring writes stop working, and the overflow buffer is discarded and counted (R199). They stop
here, and not with the answer that reports the failure (log 37). R199 names only record writes already queued: one that still waits for a
place in a full own-write queue keeps its turn and is issued too, the model's choice (DESIGN CHOICE, unsafe, log 59). -/
def stopNotices (s : State) : State :=
  s.updNtc fun u =>
    { u with works := false, discarded := u.discarded + BitVec.ofNat 32 u.overflow.length, overflow := [],
             due := u.due || !u.overflow.isEmpty }

/-- A capture read has failed: its command is answered REFUSED_STATE (R190). -/
def failCapture (s : State) : State :=
  complete resRefusedState [] (s.updPath (Path.drop fun o => o == .holdRead))

/-- The lane goes FAULTED, or a second fault changes nothing (R120, R121). -/
def ownError (r : Ret) (code : FaultCode) (s : State) : State :=
  let s1 := s.updPath (Path.dropRet (Ret.isFor r.req.serial))
  if s1.lane.lane = .unconfigured then s1
  else
    let s2 := if r.req.origin = .noticeWrite then stopNotices s1 else s1
    let s3 := if s2.lane.lane = .faulted then s2 else settle (enterFault code r.req.addr s2)
    if r.req.origin = .holdRead ∧ s3.capturing then failCapture s3 else s3

def execOwnAccessError (s : State) : Stepped :=
  match s.path.ret Ret.isError with
  | none => .next s
  | some r =>
    match r.req.origin.faultCode with
    | none => .next s
    | some code => event (!s.resetAsserted) (ownError r code) s

/-! ## The end of a restoration (R96) -/

def State.restoringFlight (s : State) : Bool := s.commit.fly.any fun f => f.phase == .restoring

/-- Every restoring write has been answered. -/
def State.restored (s : State) : Bool := !s.path.unanswered fun o => o == .restoreWrite

def execCommitRestored (s : State) : Stepped := event (s.live && s.restoringFlight && s.restored) clearFlight s

end Sys2Proof.Machine
end

