-- ==== Sys2Proof/Machine/Rewind.lean ====
section
/-! DEFINITION. The Rewind Engine's walk: REWIND_START, UNDO_STEP_BEGIN, UNDO_ENTRY, UNDO_STEP_BOUNDARY, UNDO_STEP_RESTORED (06). -/

namespace Sys2Proof.Machine

def State.updWalk (s : State) (f : Walk → Walk) : State := s.updJrn fun j => { j with walk := j.walk.map f }

/-! ## Marks (R138) -/

/-- The distance of a position from the oldest (R123). -/
def Journal.dist (j : Journal) (p : Pos) : Nat := (p - j.oldest).toNat

/-- The walk takes a mark off the top of the stack (R138): one of a REWIND's d marks that the head has reached, or a mark a
STEP_BACK's head has passed below. -/
def Journal.takesMark (j : Journal) (w : Walk) (m : Mark) : Bool :=
  if w.back then j.dist j.head < j.dist m.pos else w.toRemove != 0 && j.dist j.head ≤ j.dist m.pos

/-- Marks leave from the top; `top` is the stack from its top down. -/
def popMarks (j : Journal) : List Mark → Walk → List Mark × Walk
  | [], w => ([], w)
  | m :: rest, w =>
    if j.takesMark w m then popMarks j rest { w with toRemove := w.toRemove - 1, removed := w.removed + 1 }
    else (m :: rest, w)

/-- The marks the head has reached leave the stack (R138). -/
def passMarks (s : State) : State :=
  match s.jrn.walk with
  | none => s
  | some w =>
    let x := popMarks s.jrn s.jrn.marks.reverse w
    let s1 := s.updJrn fun j => { j with marks := x.1.reverse, walk := some x.2 }
    if x.2.removed = w.removed then s1 else s1.markDue

/-! ## The end of a rewind (R49, R139, R141) -/

def Chan.afterRewind (f : Time) (c : Chan) : Chan :=
  { c with lagging := false, expSeq := none, lastTs := none, lastCt := none, floor := f }

/-- Each enabled channel is treated as R49 states, and recomputed. -/
def resumeChannels (s : State) : State :=
  recomputeAll (s.updFront fun fr => { fr with chans := fr.chans.map (Chan.afterRewind s.lane.f) })

def postRewindEnded (w : Walk) (o : RewindOutcome) (s : State) : State :=
  postLane (.rewindEnded o w.back (BitVec.ofNat 24 w.groups) (BitVec.ofNat 8 w.removed) s.lane.f s.lane.c) s

/-- The clock value C at the end of a completed walk: the target's C after a REWIND, the restored R after a STEP_BACK (R139). C is never
less than R (R90): where the wrap has overtaken the target's position while the start waited, the walk can end at an R above the target's
C, and C takes that R (DEDUCED, unsafe, log 13). -/
def Timeline.takeTarget (w : Walk) (o : RewindOutcome) (t : Timeline) : Timeline :=
  match o with
  | .complete => { t with c := w.targetC.elim t.r fun c => if c.toNat < t.r.toNat then t.r else c }
  | .cutShort => t
  | .faulted => t

/-- The rewind ends COMPLETE or CUT_SHORT: channels, skew offsets, STOPPED, REWIND_ENDED, in that order (R139, R140). -/
def finishRewind (w : Walk) (o : RewindOutcome) (s : State) : State :=
  let s1 := resumeChannels (s.updLane (Timeline.takeTarget w o))
  let s2 := stopLane (transferSkews (s1.updJrn fun j => { j with walk := none }))
  settle (postRewindEnded w o s2)

/-! ## REWIND_START (R131) -/

/-- The Channel Front discards head records and fetches in flight, and each fetch position is set to its cursor (R49). -/
def flushHeads (s : State) : State :=
  (discardFetches true s).updFront fun fr =>
    { fr with chans := fr.chans.map fun c => { c with heads := [], fetch := c.cursor } }

/-- The heads are flushed, and the channels that had a fetch or a checked record discarded are recomputed (R46, log 43). A DRAINED
channel that held nothing stays DRAINED until the rewind ends (R48, R49). -/
def flushChannels (s : State) : State :=
  ((List.range s.front.chans.length).filter fun i => (s.chanAt i).any fun c => !c.heads.isEmpty).foldl recomputeChan (flushHeads s)

/-- An end position that has been overwritten while entries handed in were placed is the oldest position (log 13). -/
def Journal.clampEnd (j : Journal) (p : Pos) : Pos := if j.dist j.head < j.dist p then j.oldest else p

/-- The result data of the command that starts a walk (R189): d and the target's position of a REWIND, wherever its walk will end, and n
and the walk's end position of a STEP_BACK. -/
def walkData (w : Walk) (j : Journal) : List Byte :=
  if w.back then leBytes 2 w.toRemove ++ leBytes 2 0 ++ leBytes 4 (j.clampEnd w.endPos).toNat
  else leBytes 1 w.toRemove ++ leBytes 1 0 ++ leBytes 2 0 ++ leBytes 4 w.endPos.toNat

/-- The walk as it begins, its counts at 0 (R131); a STEP_BACK removes marks by their position alone. -/
def Walk.begun (w : Walk) (j : Journal) : Walk :=
  { w with endPos := j.clampEnd w.endPos, toRemove := if w.back then 0 else w.toRemove, groups := 0, removed := 0 }

/-- The next step is announced, or the walk is at its end (R132, R139). -/
def walkOn (s : State) : State :=
  match s.jrn.walk with
  | none => s
  | some w =>
    if s.jrn.head = w.endPos then finishRewind w .complete s
    else if w.stop then finishRewind w .cutShort s
    else s.updWalk fun v => { v with phase := .announced }

/-- The rewind begins, in the order of R131; then the command is answered STARTED (R189). Where a hold's
condition has let the lane go on while the start waited, it begins from the running lane (log 44). In a lane that has gone FAULTED
meanwhile the command is refused (DEDUCED, unsafe, log 57). -/
def startRewind (w : Walk) (s : State) : State :=
  if s.lane.lane = .faulted then complete resRefusedState [] s
  else
    let s1 := (s.updLane fun t => { (t.goTo .rewinding) with holds := Holds.none, steps := 0, acc := 0 }).markDue
    let s2 := (s1.updStager fun g => { g with late := [] }).updMerge fun m => { m with starve := 0 }
    let s3 := flushChannels s2
    let s4 := passMarks (s3.updJrn fun j => { j with walk := some (w.begun j) })
    walkOn (complete resStarted (walkData w s.jrn) s4)

/-- Every entry handed to the journal has been placed (R131). -/
def State.jrnSettled (s : State) : Bool := s.jrn.inq.isEmpty && s.jrn.wrapRead.isNone

def execRewindStart (s : State) : Stepped :=
  match s.cmd.phase with
  | .starting w => event (s.live && s.jrnSettled) (startRewind w) s
  | _ => .next s

/-! ## UNDO_STEP_BEGIN (R132) -/

def State.walkIn (s : State) (ph : WalkPhase) : Option Walk := s.jrn.walk.filter fun w => w.phase == ph

/-- The newest held entry is read (R132). -/
def readEntry (s : State) : State :=
  let n := s.path.nextOwn
  (genRead .entryRead (s.regions.elim 0 fun g => g.entryAddr (s.jrn.head - 1)) 32 s).updWalk fun w =>
    { w with reading := some n, cur := none }

def Timeline.clock (t : Timeline) : Clock := { r := t.r, f := t.f, c := t.c, group := t.group }

/-- The step begins as a commit does: the flag is set (R132). -/
def beginStep (s : State) : State :=
  readEntry ((s.updCommit fun c => { c with flag := true }).updWalk fun w =>
    { w with phase := .undoing, undone := 0, groupStep := false, writes := [], snap := s.lane.clock })

def execUndoStepBegin (s : State) : Stepped :=
  event (s.live && (s.walkIn .announced).isSome && s.readsDone) beginStep s

/-! ## UNDO_ENTRY (R133 to R138) -/

/-- The undo write of a point's old word, kept in the list of writes with the word before it (R133). -/
def undoWord (p : PointNo) (before old : PointWord) (s : State) : State :=
  let d := s.dirAt p
  (genWrite .undoWrite (s.wordAddr p) old.toBytes s).updWalk fun w =>
    { w with writes := { point := p, oldWord := before, newWord := old, oldChange := d.bind (·.lastChange),
                         oldGood := d.bind (·.lastGood) } :: w.writes }

/-- A dwell entry is re-inserted (R134, R135). It takes the place of an entry of the same point, and none is made when the table is
full: the law of R63 holds of any journal contents (log 23). -/
def reinsert (e : DwellEntry) (s : State) : State :=
  s.updMerge fun m =>
    let d := removeDwell e.point m.dwell
    if d.length < Config.dwellMax then { m with dwell := d ++ [e] } else { m with dwell := d }

/-- The re-insertion of a FROM_DWELL entry: value and quality from the word, time and channel from the last-change (R134); where the
point has no last-change, free values (log 23). -/
def reinsertRelease (p : PointNo) (pos : Pos) (lead : BitVec 16) (w : PointWord) (s : State) : State :=
  let q := w.quality &&& (qInvalid ||| qSuspect)
  match (s.dirAt p).bind (·.lastChange) with
  | some c =>
    reinsert { point := p, item := { value := w.value, quality := q, time := c.time, chan := c.chan, pos := pos },
               release := c.time + lead.setWidth 48 } s
  | none =>
    let t := Config.undoTime s.freeIdx
    let s1 := reinsert { point := p, item := { value := w.value, quality := q, time := t, chan := Config.undoChan s.freeIdx,
                                               pos := pos },
                         release := t + lead.setWidth 48 } s
    { s1 with freeIdx := s1.freeIdx + 1 }

/-- The effect of undoing an entry on image, directory, dwell table, offsets and clock (R134 to R137). -/
def undoEffect (e : JEntry) (before : PointWord) (s : State) : State :=
  match e with
  | .applied _ pos p _ _ fromDwell oc og old lead =>
    let s1 := if fromDwell then reinsertRelease p pos lead before s else s
    (undoWord p before old s1).setDirAt p fun d =>
      { d with lastChange := oc.map fun x => { time := x.1, value := old.value, chan := x.2 }, lastGood := og }
  | .duplicate _ _ p old => undoWord p before old s
  | .chatter _ _ p old h lead =>
    reinsert { point := p, item := h, release := h.time + lead.setWidth 48 } (undoWord p before old s)
  | .held _ _ p _ _ _ => s.updMerge fun m => { m with dwell := removeDwell p m.dwell }
  | .superseded _ _ p h =>
    s.updMerge fun m => { m with dwell := m.dwell.map fun d => if d.point = p then { d with item := h } else d }
  | .groupEnd num _ _ r f _ =>
    (s.updLane fun t => { t with r := r, f := f, c := r, group := num }).updJrn fun j =>
      { j with geCount := j.geCount - 1, geps := j.geps.filter fun p => p != j.head }
  | .skew set old _ => s.updFront fun fr => { fr with offsets := fr.offsets.set set.toNat old }
  | .dropped _ _ _ _ => s
  | .rejected _ _ _ _ => s
  | .noPoint _ _ => s
  | .marker _ _ => s

/-- The cursor of a channel an undone entry names goes to its position when that is older, not below retain; the fetch position follows
(R137). -/
def Chan.takeBack (x : Pos) (c : Chan) : Chan :=
  if c.dist x < c.dist c.cursor then
    let p := if c.dist x < c.dist c.retain then c.retain else x
    { c with cursor := p, fetch := p }
  else c

def takeCursorBack (e : JEntry) (s : State) : State :=
  match e.named with
  | none => s
  | some (ch, x) => s.setChan ch.toNat (Chan.takeBack x)

/-- The head moves back to the entry's position; at the oldest, the whole-span flag is set (R132, R137). -/
def headBack (s : State) : State :=
  s.updJrn fun j => { j with head := j.head - 1, wholeSpan := j.wholeSpan || j.head - 1 == j.oldest }

/-- After an entry: the step is done at the end position, and else the next older entry is read (R132). -/
def stepOn (s : State) : State :=
  match s.jrn.walk with
  | none => s
  | some w => if s.jrn.head = w.endPos then s.updWalk fun v => { v with phase := .stepDone } else readEntry s

/-- One entry is undone completely (R132). An entry that decodes to none only moves the head (log 22). -/
def undoOne (e : Option JEntry) (before : PointWord) (s : State) : State :=
  let s1 := headBack s
  let s2 := match e with
    | none => s1
    | some x => takeCursorBack x (undoEffect x before s1)
  let ge := e.any JEntry.isGroupEnd
  stepOn (passMarks (s2.updWalk fun w =>
    { w with undone := w.undone + 1, groupStep := w.groupStep || ge, reading := none, cur := none }))

/-- The point whose word an undo writes (R134, R135). -/
def JEntry.writesPoint : JEntry → Option PointNo
  | .applied _ _ p _ _ _ _ _ _ _ => some p
  | .duplicate _ _ p _ => some p
  | .chatter _ _ p _ _ _ => some p
  | .held _ _ _ _ _ _ => none
  | .superseded _ _ _ _ => none
  | .dropped _ _ _ _ => none
  | .rejected _ _ _ _ => none
  | .noPoint _ _ => none
  | .marker _ _ => none
  | .groupEnd _ _ _ _ _ _ => none
  | .skew _ _ _ => none

def JEntry.isRelease : JEntry → Bool
  | .applied _ _ _ _ _ fromDwell _ _ _ _ => fromDwell
  | _ => false

/-- The word before the undo write is read, for a re-insertion (R134) or for the list of writes (R133, log 14). -/
def readBefore (e : JEntry) (p : PointNo) (s : State) : State :=
  let n := s.path.nextOwn
  (genRead .undoWordRead (s.wordAddr p) 8 s).updWalk fun w => { w with reading := some n, cur := some e }

/-- An entry has been read: a GROUP_END after the first entry ends the step (R132). -/
def entryRead (w : Walk) (e : Option JEntry) (s : State) : State :=
  match e with
  | none => undoOne none (PointWord.ofBytes []) s
  | some x =>
    if x.isGroupEnd && w.undone != 0 then s.updWalk fun v => { v with phase := .stepDone, reading := none }
    else
      match x.writesPoint with
      | none => undoOne (some x) (PointWord.ofBytes []) s
      | some p =>
        match writtenWord w.writes p with
        | some b => if x.isRelease then readBefore x p s else undoOne (some x) b s
        | none => readBefore x p s

/-- The answer the step waits for has come. -/
def undoRead (w : Walk) (r : Ret) (s : State) : State :=
  let s1 := s.updPath (Path.dropRet (Ret.isFor r.req.serial))
  match w.cur with
  | none => entryRead w (JEntry.decode r.data) s1
  | some x => undoOne (some x) (PointWord.read r.data) s1

def Origin.isUndo : Origin → Bool
  | .undoWrite => true
  | .undoWordRead => true
  | .entryRead => true
  | _ => false

/-- UNDO_ENTRY. With the answer MEMERR to an own access the walk undoes no further entry (R141). -/
def execUndoEntry (s : State) : Stepped :=
  match s.walkIn .undoing with
  | none => .next s
  | some w =>
    match w.reading with
    | none => .next s
    | some n =>
      match s.path.ret (Ret.isFor n) with
      | none => .next s
      | some r =>
        event (s.live && !s.faultComes && r.status == .ok && !s.path.waiting.any fun q => q.origin.isUndo) (undoRead w r) s

/-! ## UNDO_STEP_BOUNDARY (R132, R139, R140) -/

/-- The flag clears and the held reads are forwarded (R132). -/
def clearStep (s : State) : State :=
  (s.updCommit fun c => { c with flag := false }).updPath (Path.release false)

/-- An UNCONFIGURE waits for the step's boundary (R142). -/
def State.unconfigureWaits (s : State) : Bool := s.cmd.phase == .waiting .unconfigure

/-- The boundary of a step; the walk goes on, is cut short, ends, or is abandoned to an UNCONFIGURE that waits. The group of the step is
counted here and not at its GROUP_END: the model's choice for a step that fails (log 54). Where a STOP waits beside the UNCONFIGURE and the
walk is not at its end, R140 would cut the rewind short and R142 abandons it: the spec does not say which, and the model abandons it
without REWIND_ENDED (DESIGN CHOICE, unsafe, log 58). -/
def stepBoundary (s : State) : State :=
  let s1 := (clearStep s).updWalk fun w =>
    { w with phase := .between, groups := if w.groupStep then w.groups + 1 else w.groups, writes := [] }
  let s2 := (applySets (transferSettings s1)).markDue
  if s2.unconfigureWaits && s2.jrn.walk.any (fun w => s2.jrn.head != w.endPos) then s2 else walkOn s2

def execUndoStepBoundary (s : State) : Stepped :=
  event (s.live && (s.walkIn .stepDone).isSome && !s.path.busy Origin.isUndo) stepBoundary s

/-! ## UNDO_STEP_RESTORED (R141) -/

/-- The failed step has been restored: the flag clears, held reads go on, and REWIND_ENDED is posted FAULTED (R141). The group of the
failed step is not among the groups undone, since it met no boundary, but the marks that step removed are among the marks removed: the
spec is silent on the count of groups, and this is the model's choice (DESIGN CHOICE, unsafe, log 54). The notice is posted also where an
UNCONFIGURE waits for the end of the restoration: R142 and R186 abandon such a rewind without REWIND_ENDED, R141 posts it, and the model
follows R141 (DESIGN CHOICE, unsafe, log 61). -/
def stepRestored (w : Walk) (s : State) : State :=
  let s1 := resumeChannels (clearStep s)
  settle (postRewindEnded w .faulted (s1.updJrn fun j => { j with walk := none }))

def execUndoStepRestored (s : State) : Stepped :=
  match s.walkIn .restoring with
  | none => .next s
  | some w => event (s.live && s.restored) (stepRestored w) s

end Sys2Proof.Machine
end

