-- ==== Sys2Proof/Machine/Configure.lean ====
section
/-! DEFINITION. CONFIGURE, CONFIGURE_VALIDATION, REGION_MAP_CHANGE, IMAGE_PASS_WORD, UNCONFIGURE, UNCONFIGURE_EFFECT (01, 09). -/

namespace Sys2Proof.Machine

/-! ## CONFIGURE (R182) -/

/-- The validation reads begin with the record's two lines that hold fields (R182, log 20). -/
def startValidation (s : State) : State :=
  genRead (.recordRead 1) (s.cbBase + 64) 64 (genRead (.recordRead 0) s.cbBase 64
    (s.updCmd fun c => { c with phase := .validating [] [] 0 }))

/-- CONFIGURE waits for a group in flight or a restoration, then validates (R181, R182). -/
def actConfigure (s : State) : State :=
  if s.inFlight then waitFor .configure s else startValidation s

def execConfigure (s : State) : Stepped := runCommand codeConfigure (fun _ u => actConfigure u) s

/-! ## Validation (R23, R183) -/

/-- A failed check: the field's index, the physical channel (0xFF for a field of the record), the cause and the region overlapped. -/
structure CheckFailure where
  index : Nat
  chan : Nat
  cause : Nat
  region : Nat
  deriving DecidableEq, Repr

/-- The first of a list of checks that fails. -/
def firstFailure : List (Option CheckFailure) → Option CheckFailure
  | [] => none
  | none :: rest => firstFailure rest
  | some x :: _ => some x

def failWhen (bad : Bool) (index chan cause : Nat) : Option CheckFailure :=
  if bad then some { index := index, chan := chan, cause := cause, region := 0 } else none

/-- The checks of the record's first line, in record order (R183). -/
def CfgRec.checkFields (c : CfgRec) : List (Option CheckFailure) :=
  [failWhen (c.pwBase % 64 != 0) 1 0xFF causeAlignment, failWhen (c.awBase % 64 != 0) 2 0xFF causeAlignment,
   failWhen (c.points == 0 || 16384 < c.points) 3 0xFF causeValue, failWhen (c.points < c.statusPoints) 4 0xFF causeValue,
   failWhen (c.jExp < 12 || 22 < c.jExp) 5 0xFF causeValue, failWhen (c.nExp < 6 || 12 < c.nExp) 6 0xFF causeValue,
   failWhen (ImageMode.ofCode c.imageMode).isNone 7 0xFF causeValue,
   failWhen (Policy.ofCode c.policy).isNone 8 0xFF causeValue, failWhen (c.jBase % 64 != 0) 9 0xFF causeAlignment,
   failWhen (c.nBase % 64 != 0) 10 0xFF causeAlignment, failWhen (2 ^ 48 ≤ c.start) 11 0xFF causeValue,
   failWhen (c.quantum == 0) 12 0xFF causeValue]

/-- The initial skew offsets, fields 18 to 33 (R183). -/
def CfgRec.checkSkews (c : CfgRec) : List (Option CheckFailure) :=
  c.skews.mapIdx fun i v => failWhen (v == 0x80000000) (18 + i) 0xFF causeValue

/-- The checks of an enabled entry, in entry order (R23). -/
def ChanEnt.check (phys : ChanNo) (e : ChanEnt) : List (Option CheckFailure) :=
  let c := phys.toNat
  [failWhen (e.base % 64 != 0) 1 c causeAlignment, failWhen (e.k < 4 || 20 < e.k) 2 c causeValue,
   failWhen (15 < e.skewSet) 3 c causeValue, failWhen (LatePolicy.ofCode e.late).isNone 4 c causeValue,
   failWhen (2 ^ e.k < (e.fill - e.start).toNat) 7 c causeValue]

/-- A region as validation checks it: the field that names it, its code in the result data, its place. -/
structure Span where
  index : Nat
  chan : Nat
  code : Nat
  base : Nat
  size : Nat
  deriving DecidableEq, Repr

def Span.meets (a b : Span) : Bool := a.base < b.base + b.size && b.base < a.base + a.size

/-- Bounds, then overlap with the regions before it (R183). -/
def Span.check (before : List Span) (r : Span) : Option CheckFailure :=
  if 2 ^ 40 < r.base + r.size then some { index := r.index, chan := r.chan, cause := causeBounds, region := 0 }
  else (before.find? fun b => r.meets b).map fun b =>
    { index := r.index, chan := r.chan, cause := causeOverlap, region := b.code }

def checkSpans : List Span → List Span → List (Option CheckFailure)
  | _, [] => []
  | before, r :: rest => r.check before :: checkSpans (before ++ [r]) rest

/-- The regions in check order (R183). -/
def CfgRec.spans (c : CfgRec) (ents : List (ChanNo × ChanEnt)) : List Span :=
  [{ index := 1, chan := 0xFF, code := 1, base := c.pwBase, size := windowLen c.points },
   { index := 2, chan := 0xFF, code := 2, base := c.awBase, size := windowLen c.points },
   { index := 9, chan := 0xFF, code := 3, base := c.jBase, size := 32 * 2 ^ c.jExp },
   { index := 10, chan := 0xFF, code := 4, base := c.nBase, size := 32 * 2 ^ c.nExp }] ++
  ents.map fun x => { index := 1, chan := x.1.toNat, code := 0x40 + x.1.toNat, base := x.2.base, size := 32 * 2 ^ x.2.k }

/-- The control block as a region, code 0. -/
def State.cbSpan (s : State) : Span := { index := 0, chan := 0xFF, code := 0, base := s.cbBase, size := Config.cbSize }

/-- What was read of a line of the record. -/
def lineRead (recs : List (Nat × Option (List Byte))) (l : Nat) : Option (List Byte) :=
  (recs.find? fun x => x.1 == l).bind (·.2)

/-- A channel entry as read, or its MEMORY failure (R182). -/
def entryFailures (x : ChanNo × Option (List Byte)) : List (Option CheckFailure) :=
  match x.2 with
  | none => [failWhen true 1 x.1.toNat causeMemory]
  | some bs => (ChanEnt.parse bs).check x.1

/-- The entries in ascending physical order. -/
def insertEnt (x : ChanNo × Option (List Byte)) : List (ChanNo × Option (List Byte)) → List (ChanNo × Option (List Byte))
  | [] => [x]
  | y :: rest => if x.1.toNat < y.1.toNat then x :: y :: rest else y :: insertEnt x rest

def sortEnts (l : List (ChanNo × Option (List Byte))) : List (ChanNo × Option (List Byte)) := l.foldr insertEnt []

/-- The entries that were read. -/
def readEnts (l : List (ChanNo × Option (List Byte))) : List (ChanNo × ChanEnt) :=
  l.filterMap fun x => x.2.map fun bs => (x.1, ChanEnt.parse bs)

/-- The verdict of validation: the first failure, or the configuration (R182, R183). -/
def State.validate (s : State) (recs : List (Nat × Option (List Byte))) (ents : List (ChanNo × Option (List Byte))) :
    CheckFailure ⊕ Cfg :=
  match lineRead recs 0 with
  | none => .inl { index := 1, chan := 0xFF, cause := causeMemory, region := 0 }
  | some l0 =>
    let c := CfgRec.parse (l0 ++ (lineRead recs 1).getD [])
    let es := sortEnts ents
    let rs := readEnts es
    let skews := match lineRead recs 1 with
      | none => [failWhen true 18 0xFF causeMemory]
      | some _ => c.checkSkews
    match firstFailure (c.checkFields ++ skews ++ es.flatMap entryFailures ++ checkSpans [s.cbSpan] (c.spans rs)) with
    | some x => .inl x
    | none => .inr { record := c, ents := rs }

/-- A failed CONFIGURE changes nothing; a validated one goes on to the change of map (R182, R184). -/
def judgeConfigure (recs : List (Nat × Option (List Byte))) (ents : List (ChanNo × Option (List Byte))) (s : State) : State :=
  match s.validate recs ents with
  | .inl x => complete resBadParam (badParamData x.index x.chan x.cause x.region) s
  | .inr c => s.updCmd fun p => { p with phase := .mapChange c }

def execConfigureValidation (s : State) : Stepped :=
  match s.cmd.phase with
  | .validating recs ents todo =>
    event (s.live && recs.length == 2 && ents.length == todo) (judgeConfigure recs ents) s
  | _ => .next s

/-! ## REGION_MAP_CHANGE (R161, R184) -/

/-- Every request taken under the old map has been issued or answered, and its window reads have returned (R161). A write refused or
captured counts as answered here with its response ready, sent or not (log 45). -/
def Path.quiet (p : Path) : Bool := p.fwd.isEmpty && p.held.isEmpty && p.windowReadIds.isEmpty

def CfgRec.regions (c : CfgRec) : Regions :=
  { pwBase := c.pwBase, awBase := c.awBase, points := c.points, statusPoints := c.statusPoints, jBase := c.jBase,
    jExp := c.jExp, nBase := c.nBase, nExp := c.nExp }

/-- The directory at CONFIGURE (R21). -/
def CfgRec.directory (c : CfgRec) : List DirEntry :=
  (List.range c.points).map fun i =>
    { kind := if i < c.statusPoints then .status else .analog, sel := .live, lastGood := none, lastChange := none, dwell := 0,
      policy := (Policy.ofCode c.policy).getD .pin }

/-- The context of an enabled channel at CONFIGURE (R50). -/
def ChanEnt.context (start : Time) (phys : ChanNo) (e : ChanEnt) : Chan :=
  let c : Chan :=
    { phys := phys, base := e.base, k := e.k, start := e.start, skewSet := BitVec.ofNat 4 e.skewSet,
      late := (LatePolicy.ofCode e.late).getD .drop, anchor := e.anchor, pendSet := none, closed := e.closed,
      retain := e.start, cursor := e.start, fetch := e.start, fill := e.fill, heads := [], unj := [], lastTs := none,
      lastCt := none, floor := start, expSeq := none, rejected := 0, lateCount := 0, lagging := false, st := .empty }
  { c with st := c.calc }

/-- Own requests of the session that ends: reads lose their block, and only fetches wait to be dropped (R34, log 30). -/
def Origin.ofSession : Origin → Bool
  | .filterRead => true
  | .commitRead => true
  | .undoWordRead => true
  | .oldestRead => true
  | .entryRead => true
  | .holdRead => true
  | .imgRead => true
  | .imgWrite => true
  | _ => false

/-- The old session's reads are of no use to the new one: those not yet answered are marked, and the answers not yet acted on are dropped,
fetches apart (log 30). The answer of an oldest-entry read goes with them, and with it the entry that waited for it (log 52). -/
def Path.endSession (p : Path) : Path :=
  let q := p.drop Origin.ofSession
  { q with returns := q.returns.filter fun r => r.req.origin.isFetch }

/-- Every block takes its CONFIGURE values (R184). An entry handed in that still waits for the read of the oldest entry is dropped
unwritten: the model's choice (log 52). -/
def takeConfig (c : Cfg) (s : State) : State :=
  let g := c.record
  let start : Time := BitVec.ofNat 48 g.start
  { s with
    path := s.path.endSession
    regions := some g.regions
    dir := g.directory
    ovr := []
    front := { chans := c.ents.map fun x => x.2.context start x.1, offsets := g.skews,
               discarded := (discardFetches false s).front.discarded }
    merge := { Merge.reset with limit := g.limit, quantum := g.quantum, window := g.window, start := start }
    stager := Stager.reset
    commit := Commit.reset
    lane := { Timeline.reset with lane := .configuring, c := start, r := start, f := start }
    jrn := { Journal.reset with nextTok := s.jrn.nextTok }
    ntc := { NoticeUnit.reset with mask := g.mask, lineEn := g.lineEn, works := true }
    img := some { point := 0, mode := (ImageMode.ofCode g.imageMode).getD .keep, cleaning := false } }

/-- The word CLEAR writes to a point (R20). -/
def clearWord (k : PKind) : PointWord := { value := 0, quality := qInvalid, count := 0, source := sourceOf 0 k, phase := 0 }

/-- The access of the pass for the point it has reached (R20). -/
def imgAccess (s : State) : State :=
  match s.img with
  | none => s
  | some i =>
    let p : PointNo := BitVec.ofNat 16 i.point
    match i.mode with
    | .keep => genRead .imgRead (s.wordAddr p) 8 s
    | .clear => genWrite .imgWrite (s.wordAddr p) (clearWord (((s.dirAt p).map (·.kind)).getD .status)).toBytes s

/-- The map changes, every block takes its values, the lane goes CONFIGURING, CONFIGURE is answered, the pass begins (R184). -/
def changeMap (c : Cfg) (s : State) : State := imgAccess (complete resStarted [] (takeConfig c s))

def execRegionMapChange (s : State) : Stepped :=
  match s.cmd.phase with
  | .mapChange c => event (s.live && s.path.quiet) (changeMap c) s
  | _ => .next s

/-! ## IMAGE_PASS_WORD (R20, R185) -/

/-- The pass completes: STOPPED, CONFIGURED, the whole status block, held reads released (R185). -/
def endPass (s : State) : State :=
  let s1 := (stopLane (s.setImg none)).updPath (Path.release false)
  settle (postLane (.configured s1.merge.start (BitVec.ofNat 16 s1.points) (BitVec.ofNat 16 s1.statusPoints)
    (BitVec.ofNat 8 s1.front.chans.length)) s1)

/-- The pass moves on to the next word. -/
def nextWord (s : State) : State :=
  match s.img with
  | none => s
  | some i =>
    if i.point + 1 < s.points then imgAccess (s.setImg (some { i with point := i.point + 1, cleaning := false }))
    else endPass s

/-- The last-good value is seeded from a word KEEP has read (R20). -/
def seedGood (w : PointWord) (e : DirEntry) : DirEntry :=
  if clean w.quality && (e.kind == .analog || w.value.toNat < 4) then { e with lastGood := some w.value } else e

/-- A KEEP read: the last-good value, and the write that clears OVERRIDDEN and PRESENTED (R20). The value is seeded at the read, before the
write that cleans the word is answered, whatever the answer (log 50). -/
def keepWord (w : PointWord) (s : State) : State :=
  match s.img with
  | none => s
  | some i =>
    let p : PointNo := BitVec.ofNat 16 i.point
    let s1 := s.setDirAt p (seedGood w)
    if w.quality &&& (qOverridden ||| qPresented) = 0 then nextWord s1
    else genWrite .imgWrite (s1.wordAddr p) { w with quality := w.quality &&& qStored }.toBytes
      (s1.setImg (some { i with cleaning := true }))

def Ret.isPass (r : Ret) : Bool := r.status == .ok && (r.req.origin == .imgRead || r.req.origin == .imgWrite)

def passWord (r : Ret) (s : State) : State :=
  let s1 := s.updPath (Path.dropRet (Ret.isFor r.req.serial))
  if r.req.origin = .imgRead then keepWord (PointWord.read r.data) s1 else nextWord s1

def execImagePassWord (s : State) : Stepped :=
  match s.path.ret Ret.isPass with
  | none => .next s
  | some r => event (s.live && s.img.isSome) (passWord r) s

/-! ## UNCONFIGURE (R186) -/

/-- The result DONE, the last write of the status block, the owner; N advances (R186). A rewind in flight is abandoned (R142). -/
def finishUnconfigure (s : State) : State :=
  let s1 := s.updJrn fun j => { j with walk := none }
  (genOwner (rewriteStatus .unconfigured (genResult resDone [] s1))).updCmd (CmdProc.advance .draining)

/-- UNCONFIGURE abandons a CONFIGURING lane: the pass stops, held reads go on unmerged (R20, R170, R186). The pass's outstanding access
stays with the pass: a MEMERR that answers it before UNCONFIGURE takes effect still faults the lane, and an OK answer is dropped as it
takes effect (R174, log 21). -/
def abandonPass (s : State) : State := (s.setImg none).updPath (Path.release true)

def actUnconfigure (s : State) : State :=
  match s.lane.lane with
  | .unconfigured => complete resDone [] s
  | .configuring => finishUnconfigure (abandonPass s)
  | .stopped | .running | .stepping | .holding | .rewinding | .faulted =>
    if s.commit.fly.isSome || s.stepInFlight then waitFor .unconfigure s else finishUnconfigure s

def execUnconfigure (s : State) : Stepped := runCommand codeUnconfigure (fun _ u => actUnconfigure u) s

/-- Every window read and every window write taken has been answered (R157, R175): no window read, and no response that was ready when
its request was taken, is still on the answer lists (log 29). -/
def Path.windowsAnswered (p : Path) : Bool := !p.answers.any fun a => a.win || a.resp.isSome

/-- The own-write queue has drained, the windows' requests have been answered, and the change of map need not wait (R157, R161, R175,
R186). -/
def State.drained (s : State) : Bool :=
  s.path.ownQ.isEmpty && s.path.waiting.isEmpty && s.path.quiet && s.path.windowsAnswered

/-- Every block takes its UNCONFIGURE values; N and the pending-slot set are kept, and a pending slot begins (R186). An entry handed in
that still waits for the read of the oldest entry is dropped unwritten: the model's choice (log 52). -/
def takeUnconfig (s : State) : State :=
  startPending
    { State.reset with
      pending := s.pending
      resetAsserted := s.resetAsserted
      cbStraps := s.cbStraps
      wallUs := s.wallUs
      freeIdx := s.freeIdx
      path := { s.path.endSession with pass := 0 }
      front := { Front.reset with discarded := (discardFetches false s).front.discarded }
      jrn := { Journal.reset with nextTok := s.jrn.nextTok }
      cmd := { s.cmd with phase := .idle } }

def execUnconfigureEffect (s : State) : Stepped :=
  event (!s.resetAsserted && s.draining && s.drained) takeUnconfig s

end Sys2Proof.Machine
end

