-- ==== Sys2Proof/Machine/LaneCommands.lean ====
section
/-! DEFINITION. The lane, settings, mark and rewind commands: RUN, STEP, STOP, SET_PACE, SET_STOP_TIME, SET_STOP_COUNT, SET_SKEW,
SET_CHANNEL, MARK, DROP_MARK, REWIND, STEP_BACK (05, 06, 09). -/

namespace Sys2Proof.Machine

/-! ## RUN and STEP (R105, R106, R187) -/

/-- The lane goes RUNNING with a run mode; a change of run mode clears the accumulator (R103, R105). -/
def Timeline.runAs (m : RunMode) (t : Timeline) : Timeline :=
  let u := t.goTo .running
  { u with runMode := m, steps := 0, acc := if t.runMode = m then u.acc else 0 }

/-- The lane goes STEPPING with a step count (R106). -/
def Timeline.stepFor (n : Nat) (t : Timeline) : Timeline := { (t.goTo .stepping) with steps := n, stepped := 0 }

/-- WATCH, STOP_TIME and STOP_COUNT leave the set (R105, R106). -/
def Holds.clearCommanded (h : Holds) : Holds := { h with watch := false, stopTime := false, stopCount := false }

/-- RUN in HOLDING: the resume mode becomes RUNNING, and the lane runs if the set is empty (R105). -/
def Timeline.resumeRun (m : RunMode) (t : Timeline) : Timeline :=
  let h := t.holds.clearCommanded
  if h.isEmpty then { (t.runAs m) with holds := h }
  else { t with holds := h, resume := .running, runMode := m, steps := 0, acc := if t.runMode = m then t.acc else 0 }

/-- STEP in HOLDING (R106). -/
def Timeline.resumeStep (n : Nat) (t : Timeline) : Timeline :=
  let h := t.holds.clearCommanded
  if h.isEmpty then { (t.stepFor n) with holds := h }
  else { t with holds := h, resume := .stepping, steps := n, stepped := 0 }

/-- A lane that starts from STOPPED: with history ended it stops again with END_OF_HISTORY (R76, R118); with notices waiting it
holds on NOTICE_FULL (R111). -/
def startLane (s : State) : State :=
  if s.historyEnded then endHistory s
  else if s.ntc.overflow.isEmpty then s else holdOn .noticeFull s

/-- RUN or STEP finds the end of history already reached and stops the lane, one that still holds on a reason included (R76, R105,
R118). -/
def reportEnd (s : State) : State := if s.historyEnded then endHistory s else s

/-- The answer of RUN and STEP: the lane state they leave (R187). -/
def laneAnswer (s : State) : State := complete resDone (leBytes 1 s.lane.lane.code) s

def startRun (m : RunMode) (s : State) : State :=
  match s.lane.lane with
  | .stopped => startLane ((s.updLane (Timeline.runAs m)).markDue)
  | .holding => reportEnd ((s.updLane (Timeline.resumeRun m)).markDue)
  | .running | .stepping => reportEnd ((s.updLane (Timeline.runAs m)).markDue)
  | .unconfigured | .configuring | .rewinding | .faulted => s

def actRun (d : List Byte) (s : State) : State :=
  match RunMode.ofCode (field d 8 1) with
  | none => badParam 1 s
  | some m =>
    if s.historyEnded && s.noticesFull then complete resNoticeFull [] s else laneAnswer (settle (startRun m s))

def execRun (s : State) : Stepped := runCommand codeRun actRun s

def startStep (n : Nat) (s : State) : State :=
  match s.lane.lane with
  | .stopped => startLane ((s.updLane (Timeline.stepFor n)).markDue)
  | .holding => reportEnd ((s.updLane (Timeline.resumeStep n)).markDue)
  | .running | .stepping => reportEnd ((s.updLane (Timeline.stepFor n)).markDue)
  | .unconfigured | .configuring | .rewinding | .faulted => s

def actStep (d : List Byte) (s : State) : State :=
  let n := field d 8 2
  if n = 0 then badParam 1 s
  else if s.noticesFull then complete resNoticeFull [] s
  else laneAnswer (settle (startStep n s))

def execStep (s : State) : Stepped := runCommand codeStep actStep s

/-! ## STOP (R107, R140, R187) -/

/-- The answer of STOP: lane state, R, group number. -/
def stopAnswer (res : Nat) (s : State) : State := complete res (resultClock s.lane.lane.code s) s

def actStop (s : State) : State :=
  match s.lane.lane with
  | .rewinding => stopAnswer resStarted (s.updWalk fun w => { w with stop := true })
  | .stopped => stopAnswer resDone s
  | .unconfigured | .configuring | .running | .stepping | .holding | .faulted =>
    if s.commit.fly.isSome then waitFor .stop s else stopAnswer resDone (settle (stopLane s))

def execStop (s : State) : Stepped := runCommand codeStop (fun _ u => actStop u) s

/-! ## Settings (R115, R116, R188) -/

/-- The buffer transfers every value present (R116). -/
def transferAll (s : State) : State := transferSkews (transferSettings s)

/-- A value has entered the buffer: it transfers at once where no group and no undo is in flight (R116), and the command is answered
with whether it has taken effect (R188). -/
def settingTaken (s : State) : State :=
  if s.inFlight then complete resDone (pendingData true) s
  else complete resDone (pendingData false) (settle (transferAll s))

def State.updPend (s : State) (f : Pend → Pend) : State := s.updLane fun t => { t with pend := f t.pend }

def actSetPace (d : List Byte) (s : State) : State :=
  let p := field d 8 4
  if p < 16 ∨ 65536 < p then badParam 1 s else settingTaken (s.updPend fun b => { b with pace := some p })

def execSetPace (s : State) : Stepped := runCommand codeSetPace actSetPace s

def actSetStopTime (d : List Byte) (s : State) : State :=
  let t := field d 16 8
  if field d 8 1 % 2 = 0 then settingTaken (s.updPend fun b => { b with stopTime := some none })
  else if 2 ^ 48 ≤ t then badParam 2 s
  else settingTaken (s.updPend fun b => { b with stopTime := some (some (BitVec.ofNat 48 t)) })

def execSetStopTime (s : State) : Stepped := runCommand codeSetStopTime actSetStopTime s

def actSetStopCount (d : List Byte) (s : State) : State :=
  settingTaken (s.updPend fun b =>
    { b with stopCount := some (BitVec.ofNat 32 (field d 8 4), BitVec.ofNat 32 (field d 12 4)) })

def execSetStopCount (s : State) : Stepped := runCommand codeSetStopCount actSetStopCount s

def actSetSkew (d : List Byte) (s : State) : State :=
  let i := field d 8 1
  let off : Word32 := BitVec.ofNat 32 (field d 12 4)
  if 15 < i then badParam 1 s
  else if off = 0x80000000 then badParam 2 s
  else settingTaken (s.updPend fun b => { b with skew := b.skew.set i (some off) })

def execSetSkew (s : State) : Stepped := runCommand codeSetSkew actSetSkew s

/-- SET_CHANNEL's values wait in the context, or are applied at once (R26, R188). -/
def placeSet (i : Nat) (lp : LatePolicy) (an : Bool) (s : State) : State :=
  let s1 := s.setChan i fun c => { c with pendSet := some (lp, an) }
  if s.inFlight then complete resDone (pendingData true) s1
  else complete resDone (pendingData false) (settleKeep (applySet s1 i))

def actSetChannel (d : List Byte) (s : State) : State :=
  let c := field d 8 1
  match if c < 64 then s.logical (BitVec.ofNat 6 c) else none with
  | none => badParam 1 s
  | some i =>
    match LatePolicy.ofCode (field d 9 1) with
    | none => badParam 2 s
    | some lp => placeSet i lp (field d 10 1 % 2 == 1) s

def execSetChannel (s : State) : Stepped := runCommand codeSetChannel actSetChannel s

/-! ## Marks (R127, R128, R189) -/

def State.marksFull (s : State) : Bool := Config.markMax ≤ s.jrn.marks.length

/-- With eight marks held, the bottom one is removed and lost (R127). -/
def dropBottom (s : State) : State :=
  if s.marksFull then
    match s.jrn.marks with
    | [] => s
    | m :: rest => postLane (.markLost true m.r m.group m.pos) (s.updJrn fun j => { j with marks := rest })
  else s

/-- A new mark goes on top, and MARK is answered (R127, R189). -/
def pushMark (s : State) : State :=
  let s1 := (dropBottom s).updJrn fun j =>
    { j with marks := j.marks ++ [{ pos := j.head, r := s.lane.r, f := s.lane.f, c := s.lane.c, group := s.lane.group }] }
  complete resDone (resultClock s1.jrn.marks.length s1 ++ leBytes 4 s1.jrn.head.toNat) s1

def actMark (s : State) : State :=
  if s.marksFull && s.noticesFull then complete resNoticeFull [] s
  else if s.commit.fly.isSome then waitFor .mark s
  else pushMark s

def execMark (s : State) : Stepped := runCommand codeMark (fun _ u => actMark u) s

/-- DROP_MARK removes the top mark; one of a REWIND's d marks is then no longer there to remove (R128, R138). -/
def actDropMark (s : State) : State :=
  if s.jrn.marks.isEmpty then complete resOutOfRange [] s
  else
    let s1 := (s.updJrn fun j => { j with marks := j.marks.dropLast }).updWalk fun w =>
      { w with toRemove := w.toRemove - 1 }
    complete resDone (leBytes 1 s1.jrn.marks.length) s1

def execDropMark (s : State) : Stepped := runCommand codeDropMark (fun _ u => actDropMark u) s

/-! ## REWIND and STEP_BACK (R129, R130, R189) -/

/-- A walk before it begins; `n` is d or the step count. -/
def Walk.new (back : Bool) (n : Nat) (endPos : Pos) (c : Option Time) : Walk :=
  { back := back, endPos := endPos, targetC := c, toRemove := n, groups := 0, removed := 0, stop := false, phase := .between,
    undone := 0, groupStep := false, reading := none, cur := none, writes := [],
    snap := { r := 0, f := 0, c := 0, group := 0 } }

/-- The rewind starts once every entry handed in has been placed (R131). -/
def willRewind (w : Walk) (s : State) : State := s.updCmd fun c => { c with phase := .starting w }

def actRewind (d : List Byte) (s : State) : State :=
  let n := field d 8 1
  if n = 0 then badParam 1 s
  else
    match if n ≤ s.jrn.marks.length then s.jrn.marks[s.jrn.marks.length - n]? else none with
    | none => complete resOutOfRange [] s
    | some m =>
      if s.noticesFull then complete resNoticeFull [] s else willRewind (Walk.new false n m.pos (some m.c)) s

def execRewind (s : State) : Stepped := runCommand codeRewind actRewind s

/-- The number of complete groups the journal holds (R125). -/
def Journal.completeGroups (j : Journal) : Nat := if !j.wrapped || j.wholeSpan then j.geCount else j.geCount - 1

/-- The end position of a STEP_BACK: just after the GROUP_END before the n-th newest group, or the oldest (R130, log 13). -/
def Journal.stepBackEnd (j : Journal) (n : Nat) : Pos :=
  if j.geps.length ≤ n then j.oldest
  else match j.geps[j.geps.length - n - 1]? with
    | some p => p + 1
    | none => j.oldest

def actStepBack (d : List Byte) (s : State) : State :=
  let n := field d 8 2
  if n = 0 then badParam 1 s
  else if s.jrn.completeGroups < n then complete resOutOfRange [] s
  else if s.noticesFull then complete resNoticeFull [] s
  else willRewind (Walk.new true n (s.jrn.stepBackEnd n) none) s

def execStepBack (s : State) : Stepped := runCommand codeStepBack actStepBack s

end Sys2Proof.Machine
end

