-- ==== Sys2Proof/Machine/PointCommands.lean ====
section
/-! DEFINITION. The watch and point commands, the end of a command's wait, and rejected descriptors: WATCH_SET, WATCH_CLEAR,
SET_PRESENTATION, HOLD_CAPTURE, SET_DWELL, SET_OVERRIDE_POLICY, RELEASE_OVERRIDE, QUERY_POINT, COMMAND_WAIT_END,
DESCRIPTOR_REJECTED (01, 04, 07, 09). -/

namespace Sys2Proof.Machine

/-! ## Watches (R93, R191) -/

/-- The eight quality flags. -/
def oneFlag (q : BitVec 8) : Bool :=
  q == qInvalid || q == qSuspect || q == qLate || q == qUnfiltered || q == qCorroborated || q == qChatter || q == qOverridden ||
    q == qPresented

/-- A condition code with its operand bytes, FORMAT.CODES. -/
def WatchCond.ofCode (d : List Byte) : Option WatchCond :=
  match field d 12 1 with
  | 1 => some .anyChange
  | 2 => some (.equals (BitVec.ofNat 32 (field d 16 4)))
  | 3 => some (.qualitySet (BitVec.ofNat 8 (field d 16 1)))
  | _ => none

/-- NOTIFY 1, HALT 2. -/
def haltOfCode : Nat → Option Bool
  | 1 => some false
  | 2 => some true
  | _ => none

def WatchCond.operandOk : WatchCond → Bool
  | .anyChange => true
  | .equals _ => true
  | .qualitySet q => oneFlag q

/-- The watch a WATCH_SET describes, or the index of its first offending parameter (R191). -/
def watchParams (p : Nat) (d : List Byte) : Nat ⊕ (BitVec 5 × Watch) :=
  if 31 < field d 8 1 then .inl 1
  else if p ≤ field d 10 2 then .inl 2
  else
    match WatchCond.ofCode d, haltOfCode (field d 13 1) with
    | none, _ => .inl 3
    | some _, none => .inl 4
    | some c, some h =>
      if c.operandOk then .inr (BitVec.ofNat 5 (field d 8 1), { point := BitVec.ofNat 16 (field d 10 2), cond := c, halt := h })
      else .inl 5

/-- A slot takes a new content, and the command is answered with whether it was in use (R191). -/
def changeWatch (slot : BitVec 5) (w : Option Watch) (s : State) : State :=
  let was := ((s.commit.watches[slot.toNat]?).join).isSome
  complete resDone (leBytes 1 (boolBit was 1)) (s.updCommit fun c => { c with watches := c.watches.set slot.toNat w })

/-- A commit is in flight: its flag is set (R93). -/
def State.commitInFlight (s : State) : Bool := s.commit.flag && s.commit.fly.isSome

def actWatchSet (d : List Byte) (s : State) : State :=
  match watchParams s.points d with
  | .inl i => badParam i s
  | .inr (slot, w) => if s.commitInFlight then waitFor (.watchSet slot w) s else changeWatch slot (some w) s

def execWatchSet (s : State) : Stepped := runCommand codeWatchSet actWatchSet s

def actWatchClear (d : List Byte) (s : State) : State :=
  if 31 < field d 8 1 then badParam 1 s
  else
    let slot : BitVec 5 := BitVec.ofNat 5 (field d 8 1)
    if s.commitInFlight then waitFor (.watchClear slot) s else changeWatch slot none s

def execWatchClear (s : State) : Stepped := runCommand codeWatchClear actWatchClear s

/-! ## SET_PRESENTATION and HOLD_CAPTURE (R13, R19, R190) -/

/-- The addresses of the lines of a range of points. -/
def rangeLines (g : Regions) (first count : Nat) : List Nat :=
  let a := lineOf (g.wordAddr first)
  let b := lineOf (g.wordAddr (first + count - 1))
  (List.range ((b - a) / 64 + 1)).map fun i => a + 64 * i

/-- The capture reads of a HOLD begin; `after` are window reads to be merged first (R19, R190; which ones, where the HOLD has waited:
log 60). -/
def startCapture (first count : Nat) (after : List Nat) (s : State) : State :=
  match s.regions with
  | none => s
  | some g =>
    (rangeLines g first count).foldl (fun u a => genRead .holdRead a 64 u)
      (s.updCmd fun c => { c with phase := .capturing first count after })

/-- The points of a range take a selector as one change (R13, R19). -/
def setSelector (first count : Nat) (f : Nat → Selector) (s : State) : State :=
  s.setDir (s.dir.mapIdx fun i e => if first ≤ i ∧ i < first + count then { e with sel := f i } else e)

/-- The selectors that capture nothing, FORMAT.CODES. -/
def selectorOf : Nat → Option Selector
  | 1 => some .live
  | 3 => some .lastGood
  | 4 => some .blank
  | _ => none

def actSetPresentation (d : List Byte) (s : State) : State :=
  let first := field d 8 2
  let count := field d 10 2
  match badRange first count s.points with
  | some i => badParam i s
  | none =>
    if field d 12 1 = 2 then
      if s.commit.flag then waitFor (.hold first count) s else startCapture first count [] s
    else
      match selectorOf (field d 12 1) with
      | none => badParam 3 s
      | some x => complete resDone (leBytes 2 count) (setSelector first count (fun _ => x) s)

def execSetPresentation (s : State) : Stepped := runCommand codeSetPresentation actSetPresentation s

def Ret.isCapture (r : Ret) : Bool := r.status == .ok && r.req.origin == .holdRead

/-- The word of a point among the lines captured. -/
def capturedWord (g : Regions) (rs : List Ret) (p : Nat) : PointWord :=
  let a := g.wordAddr p
  match rs.find? fun r => r.req.addr.toNat == lineOf a with
  | none => PointWord.ofBytes []
  | some r => PointWord.ofBytes ((r.data.drop (a % 64)).take 8)

/-- Every line of the range has been read, and the reads to be merged first have been (R13, R19). A read is merged as its data returns;
which reads these are is log 60's. -/
def State.captured (s : State) (g : Regions) (first count : Nat) (after : List Nat) : Bool :=
  (s.path.returns.filter Ret.isCapture).length == (rangeLines g first count).length &&
    !after.any fun i => s.path.windowReadIds.contains i

/-- The range takes HOLD with the captured values, and the command is answered (R13, R190). -/
def finishCapture (g : Regions) (first count : Nat) (s : State) : State :=
  let rs := s.path.returns.filter Ret.isCapture
  let s1 := setSelector first count
    (fun p => let w := capturedWord g rs p
      .hold w.value w.quality) s
  complete resDone (leBytes 2 count)
    (s1.updPath fun p => { p with returns := p.returns.filter fun r => !r.isCapture })

/-- HOLD_CAPTURE. Where an access other than a capture read has faulted the lane meanwhile, the capture is finished all the same (log 51). -/
def execHoldCapture (s : State) : Stepped :=
  match s.cmd.phase, s.regions with
  | .capturing first count after, some g => event (s.live && s.captured g first count after) (finishCapture g first count) s
  | _, _ => .next s

/-! ## SET_DWELL, SET_OVERRIDE_POLICY, RELEASE_OVERRIDE (R16, R17, R153, R190) -/

def actSetDwell (d : List Byte) (s : State) : State :=
  let first := field d 8 2
  let count := field d 10 2
  match badRange first count s.statusPoints with
  | some i => badParam i s
  | none =>
    if 3 < field d 12 1 then badParam 3 s
    else complete resDone [] (s.setDir (mapRange first count (fun e => { e with dwell := BitVec.ofNat 2 (field d 12 1) }) s.dir))

def execSetDwell (s : State) : Stepped := runCommand codeSetDwell actSetDwell s

def actSetOverridePolicy (d : List Byte) (s : State) : State :=
  let first := field d 8 2
  let count := field d 10 2
  match badRange first count s.points with
  | some i => badParam i s
  | none =>
    match Policy.ofCode (field d 12 1) with
    | none => badParam 3 s
    | some p => complete resDone [] (s.setDir (mapRange first count (fun e => { e with policy := p }) s.dir))

def execSetOverridePolicy (s : State) : Stepped := runCommand codeSetOverridePolicy actSetOverridePolicy s

def OvrEntry.inRange (first count : Nat) (e : OvrEntry) : Bool := first ≤ e.point.toNat && e.point.toNat < first + count

def actReleaseOverride (d : List Byte) (s : State) : State :=
  let first := field d 8 2
  let count := field d 10 2
  match badRange first count s.points with
  | some i => badParam i s
  | none =>
    complete resDone (leBytes 2 (s.ovr.filter (OvrEntry.inRange first count)).length)
      (s.setOvr (s.ovr.filter fun e => !e.inRange first count))

def execReleaseOverride (s : State) : Stepped := runCommand codeReleaseOverride actReleaseOverride s

/-! ## QUERY_POINT (R192) -/

def PKind.code : PKind → Nat
  | .status => 1
  | .analog => 2

/-- The result data of QUERY_POINT. -/
def State.queryData (s : State) (p : PointNo) : List Byte :=
  match s.dirAt p with
  | none => []
  | some e =>
    leBytes 1 e.kind.code ++ leBytes 1 e.sel.code ++ leBytes 1 e.dwell.toNat ++ leBytes 1 e.policy.code ++
      leBytes 1 (boolBit e.lastGood.isSome 1 + boolBit e.lastChange.isSome 2 + boolBit (findOvr s.ovr p).isSome 4 +
        boolBit (findDwell s.merge.dwell p).isSome 8) ++ leBytes 1 0 ++
      leBytes 6 (e.lastChange.elim 0 fun c => c.time.toNat) ++ leBytes 1 (e.lastChange.elim 0xFF fun c => c.chan.toNat)

def answerQuery (p : PointNo) (s : State) : State := complete resDone (s.queryData p) s

def actQueryPoint (d : List Byte) (s : State) : State :=
  let p := field d 8 2
  if s.points ≤ p then badParam 1 s
  else if s.commit.flag then waitFor (.query (BitVec.ofNat 16 p)) s
  else answerQuery (BitVec.ofNat 16 p) s

def execQueryPoint (s : State) : Stepped := runCommand codeQueryPoint actQueryPoint s

/-! ## COMMAND_WAIT_END (R107, R121, R181) -/

/-- The commands that still act in a FAULTED lane (R181). -/
def WaitCmd.actsFaulted : WaitCmd → Bool
  | .configure => true
  | .unconfigure => true
  | .query _ => true
  | .stop => false
  | .mark => false
  | .watchSet _ _ => false
  | .watchClear _ => false
  | .hold _ _ => false

/-- The wait has ended: the command acts, or is judged again against FAULTED and refused (R181). A lane that goes FAULTED after the
boundary the command waited for and before this row counts as one that went FAULTED while it waited, also for a STOP whose lane went
STOPPED at that boundary: the spec does not speak of that interval, and this is the model's choice (DESIGN CHOICE, unsafe, log 56). A HOLD
that waited takes effect after every window read whose data is still out as its wait ends has returned, one taken since the boundary too,
where R13 and R19 name the reads the boundary releases alone: the model's choice (DESIGN CHOICE, unsafe, log 60). -/
def endWait (w : WaitCmd) (s : State) : State :=
  if s.lane.lane = .faulted ∧ w.actsFaulted = false then complete resRefusedState [] s
  else
    match w with
    | .stop => stopAnswer resDone (if s.lane.lane = .stopped then s else settle (stopLane s))
    | .mark => pushMark s
    | .configure => startValidation s
    | .unconfigure => finishUnconfigure s
    | .watchSet slot x => changeWatch slot (some x) s
    | .watchClear slot => changeWatch slot none s
    | .hold first count => startCapture first count s.path.windowReadIds s
    | .query p => answerQuery p s

def execCommandWaitEnd (s : State) : Stepped :=
  match s.cmd.phase with
  | .waiting w => event (s.live && s.waitOver w) (endWait w) s
  | _ => .next s

/-! ## DESCRIPTOR_REJECTED (R178, R179, R205) -/

/-- The answer to a descriptor that names no command to act: a read answered MEMERR, a wrong sum, an unknown code. -/
def rejection : Option (List Byte) → Option (Nat × List Byte)
  | none => some (resBadCheck, leBytes 2 0 ++ leBytes 1 causeMemory)
  | some d =>
    if !descSumOk d then some (resBadCheck, [])
    else if descCode d = 0 ∨ 21 < descCode d then some (resUnknownCommand, [])
    else none

def execDescriptorRejected (s : State) : Stepped :=
  match s.cmd.phase with
  | .fetched d =>
    (match rejection d with
     | none => .next s
     | some (res, data) => event s.live (complete res data) s)
  | _ => .next s

end Sys2Proof.Machine
end

