-- ==== Sys2Proof/Machine/Link.lean ====
section
/-! DEFINITION. The two link ports: RESET_LINE, RESET_RELEASE, the taking of processor-side requests, the memory side's takes and
answers, and the responses sent (01, 07, 08). -/

namespace Sys2Proof.Machine

/-- What one step of exec answers. -/
abbrev Answered := Host.Outcome State Fault Refusal

/-! ## RESET (R175, R176, R21, R50, R77, R79, R98, R122, R144, R157, R203) -/

/-- On-chip state at its reset values; the straps, the queue and the model's free value counter are not on-chip state. -/
def resetAll (asserted : Bool) (s : State) : State :=
  { State.reset with pending := s.pending, cbStraps := s.cbStraps, freeIdx := s.freeIdx, resetAsserted := asserted }

def execResetLine (s : State) : Answered := .next (resetAll true s)

def execResetRelease (s : State) : Answered := .next { s with resetAsserted := false }

/-! ## Classification (PATH.CLASSIFY) -/

/-- The region a line falls in. -/
inductive Region where
  | none
  | point
  | aliasWin
  | partOwned
  | ring
  | snooped
  deriving DecidableEq, Repr

/-- A channel table line is SNOOPED when one of its two channels is enabled. -/
def State.tableLineEnabled (s : State) (a : Nat) : Bool :=
  let c := (a - (s.cbBase + Config.tableOff)) / 64 * 2
  s.front.chans.any fun ch => ch.phys.toNat == c || ch.phys.toNat == c + 1

/-- The region of an address (R160, R161): the command ring in every lane state, the other regions while they are latched. -/
def State.region (s : State) (a : Nat) : Region :=
  if within a (s.cbBase + Config.ringOff) Config.ringSize then .snooped
  else
    match s.regions with
    | none => .none
    | some g =>
      if within a (s.cbBase + Config.countersOff) 64 then .snooped
      else if within a (s.cbBase + Config.tableOff) Config.tableSize then
        (if s.tableLineEnabled a then .snooped else .none)
      else if within a (s.cbBase + Config.statusOff) Config.statusSize then .partOwned
      else if within a g.pwBase (windowLen g.points) then .point
      else if within a g.awBase (windowLen g.points) then .aliasWin
      else if within a g.jBase (32 * 2 ^ g.jExp) then .partOwned
      else if within a g.nBase (32 * 2 ^ g.nExp) then .partOwned
      else if (ringAt a 0 s.front.chans).isSome then .ring
      else .none

/-! ## Taking requests -/

/-- A request the row names is taken (R159): a request the link protocol excludes faults; one the port declines, or one that falls in
another region, leaves the state as it is (log 1). -/
def takeRow (i : Instr) (here : Bool) (act : State → State) (s : State) : Answered :=
  if !i.wf then .fault .linkViolation
  else if s.canTake && here then .next (closeEvent (act s))
  else .next s

/-- A window read is held while holding is in force, or joins the forward stream (R3 to R5, R169). -/
def takeWindowRead (r : Req) (cls : FClass) (s : State) : State :=
  let f : Fwd := { id := s.path.nextId, req := r, cls := cls }
  let s1 := s.updPath (Path.take r.tag true none)
  if s.holding then s1.updPath fun p => { p with held := p.held ++ [f] } else s1.updPath (Path.pushFwd f)

/-- The class of a window read: unmerged where an abandoned CONFIGURING waits for its UNCONFIGURE (R170, log 21). -/
def State.windowClass (s : State) (cls : FClass) : FClass :=
  if s.lane.lane == .configuring && s.img.isNone then .raw else cls

def execPointRead (r : Req) (s : State) : Answered :=
  takeRow (.pointRead r) (s.region r.addr.toNat == .point) (takeWindowRead r (s.windowClass .point)) s

/-- An alias read is issued at the point-window address of its offset (R2, R5). -/
def State.aliasReq (s : State) (r : Req) : Req :=
  { r with addr := BitVec.ofNat 40 (s.regions.elim r.addr.toNat fun g => r.addr.toNat - g.awBase + g.pwBase) }

def execAliasRead (r : Req) (s : State) : Answered :=
  takeRow (.aliasRead r) (s.region r.addr.toNat == .aliasWin) (takeWindowRead (s.aliasReq r) (s.windowClass .aliasWin)) s

/-- A write refused at take (R162). -/
def takeRefused (r : Req) (s : State) : State := s.updPath (Path.take r.tag false (some (refusal r.tag)))

def execAliasWrite (r : Req) (s : State) : Answered :=
  takeRow (.aliasWrite r) (s.region r.addr.toNat == .aliasWin) (takeRefused r) s

def execPartOwnedWrite (r : Req) (s : State) : Answered :=
  takeRow (.partOwnedWrite r) (s.region r.addr.toNat == .partOwned) (takeRefused r) s

/-- A forwarded request keeps the class it was taken under: writes to GUARDED and SNOOPED lines are judged at the head. -/
def forwardClass (r : Req) (g : Region) : FClass :=
  if r.isRead then .pass
  else
    match g with
    | .ring => .guarded
    | .snooped => .snooped
    | _ => .pass

/-- A request that is forwarded: every read outside the windows, and every write but those refused or captured at take (R162,
log 7). -/
def State.forwards (s : State) (r : Req) : Bool :=
  match s.region r.addr.toNat with
  | .point => false
  | .aliasWin => false
  | .partOwned => r.isRead
  | .none => true
  | .ring => true
  | .snooped => true

def takeForward (r : Req) (s : State) : State :=
  let f : Fwd := { id := s.path.nextId, req := r, cls := forwardClass r (s.region r.addr.toNat) }
  (s.updPath (Path.take r.tag false none)).updPath (Path.pushFwd f)

def execPassRequest (r : Req) (s : State) : Answered := takeRow (.passRequest r) (s.forwards r) (takeForward r) s

/-! ## Window writes (R146 to R149) -/

/-- One word of a window write: its point, its bytes and the mask members of its 8 bytes. -/
structure WriteWord where
  point : Nat
  bytes : List Byte
  mask : List Bool
  deriving DecidableEq, Repr

/-- The words of a write from the word of point `p` on. -/
def writeWords : Nat → Nat → List Byte → List Bool → List WriteWord
  | 0, _, _, _ => []
  | n + 1, p, bs, m => { point := p, bytes := bs.take 8, mask := m.take 8 } :: writeWords n (p + 1) (bs.drop 8) (m.drop 8)

/-- R147: a tail word, or a word some of whose bytes are enabled and not others, refuses the write. -/
def WriteWord.refuses (p : Nat) (w : WriteWord) : Bool :=
  p ≤ w.point || (w.mask.any id && !w.mask.all id)

/-- R147: a word whose mask enables all 8 bytes is a claim. -/
def WriteWord.claim (w : WriteWord) : Bool := w.mask.all id

/-- An entry created or updated by a claim (R149): the claimed value and quality with OVERRIDDEN and PRESENTED clear, the R and group
number standing, and the policy of the entry, or of the directory for a new one. -/
def captureOne (s : State) (w : WriteWord) : State :=
  let p : PointNo := BitVec.ofNat 16 w.point
  let pw := PointWord.ofBytes w.bytes
  let q := pw.quality &&& qStored
  match findOvr s.ovr p with
  | some _ =>
    s.setOvr (s.ovr.map fun e =>
      if e.point = p then { e with value := pw.value, quality := q, originR := s.lane.r, originGroup := s.lane.group } else e)
  | none =>
    s.setOvr (s.ovr ++ [{ point := p, value := pw.value, quality := q,
                          policy := ((s.dirAt p).map (·.policy)).getD .pin, originR := s.lane.r, originGroup := s.lane.group }])

/-- The claims that need a new entry (R148). -/
def State.newClaims (s : State) (ws : List WriteWord) : List WriteWord :=
  ws.filter fun w => w.claim && (findOvr s.ovr (BitVec.ofNat 16 w.point)).isNone

/-- The entries the table has free (R148). -/
def State.ovrFree (s : State) : Nat := Config.overrideMax - s.ovr.length

/-- The judgement and capture of a window write; the flag is true where it is answered OK (R146 to R149). -/
def captureWords (g : Regions) (ws : List WriteWord) (s : State) : State × Bool :=
  if s.lane.lane = .configuring then (s, false)
  else if ws.any (WriteWord.refuses g.points) then (s, false)
  else
    let new := s.newClaims ws
    if s.ovrFree < new.length then
      (post { s.notice (.overrideFull (BitVec.ofNat 16 new.length) (BitVec.ofNat 16 s.ovrFree)) with
              point := new.head?.map fun w => BitVec.ofNat 16 w.point } s, false)
    else ((ws.filter WriteWord.claim).foldl captureOne s, true)

def Req.words (r : Req) (g : Regions) : List WriteWord :=
  match r.kind with
  | .read => []
  | .write d m => writeWords (r.len / 8) (g.pointAt r.addr.toNat) d m

def takeWindowWrite (r : Req) (s : State) : State :=
  match s.regions with
  | none => s
  | some g =>
    let out := captureWords g (Req.words r g) s
    let resp : Resp := if out.2 then { tag := r.tag, status := .ok, data := [] } else refusal r.tag
    out.1.updPath (Path.take r.tag false (some resp))

def execWindowWrite (r : Req) (s : State) : Answered :=
  takeRow (.windowWrite r) (s.region r.addr.toNat == .point) (takeWindowWrite r) s

/-! ## Memory side: takes (R160, R171, R173) -/

/-- The memory side takes the request the arbiter offers (R173). A forwarded write that must be judged issues by its owner's row. -/
def execMemorySideTake (ownTag : BitVec 5) (s : State) : Answered :=
  if s.resetAsserted then .next s
  else
    match s.path.offer with
    | some .own => .next (closeEvent (s.updPath (Path.issueOwn ownTag)))
    | some .fwd =>
      (match s.path.fwd with
       | [] => .next s
       | f :: _ => if s.judged f then .next s else .next (closeEvent (s.updPath Path.issueFwd)))
    | none => .next s

/-- A place frees in the own-write queue and the block that has waited longest takes it (R171). -/
def execOwnQueueEnqueue (s : State) : Answered := .next (closeEvent (s.updPath Path.enqueueWaiting))

/-! ## Memory side: answers (R160, R174) -/

def statusOf : MemStatus → Status
  | .ok => .ok
  | .memerr => .memerr

/-- The data of a forwarded request's response: window reads are merged, all words against one state (R3, R5, R19, R170). -/
def State.answerData (s : State) (f : Fwd) (st : MemStatus) (data : List Byte) : List Byte :=
  match st, f.req.kind, f.cls, s.regions with
  | .memerr, _, _, _ => []
  | .ok, .write _ _, _, _ => []
  | .ok, .read, .point, some g => s.mergeWords g (g.pointAt f.req.addr.toNat) data
  | .ok, .read, _, _ => data

/-- Own requests whose OK answer leads to a later event of their block. -/
def Origin.returnsOk : Origin → Bool
  | .fetch _ => true
  | .filterRead => true
  | .commitRead => true
  | .undoWordRead => true
  | .journalLoose _ _ => true
  | .oldestRead => true
  | .entryRead => true
  | .holdRead => true
  | .imgRead => true
  | .imgWrite => true
  | .commitWrite => false
  | .restoreWrite => false
  | .undoWrite => false
  | .journalGroup => false
  | .journalSkew => false
  | .descRead => false
  | .recordRead _ => false
  | .tableRead _ => false
  | .resultWrite => false
  | .ownerWrite => false
  | .noticeWrite => false
  | .statusWrite => false
  | .dropped => false

/-- An own response is kept for its block: an OK answer the block waits for, a MEMERR on a fetch or an oldest-entry read, which
their rules take up (R32, R125), and a MEMERR that faults the lane (R120). -/
def Origin.keeps (o : Origin) (st : MemStatus) : Bool :=
  match st with
  | .ok => o.returnsOk
  | .memerr => o.faultCode.isSome || (match o with
    | .fetch _ => true
    | .oldestRead => true
    | _ => false)

/-- The channel table entries of the enabled channels are read once the record's first line has come (R182). -/
def readTable (line0 : Option (List Byte)) (s : State) : State :=
  let cs := line0.elim [] fun bs => enabledChans (CfgRec.parse bs).enable
  (cs.foldl (fun u c => genRead (.tableRead c) (u.entryAddr c) 32 u) s).updCmd fun p =>
    match p.phase with
    | .validating rs es _ => { p with phase := .validating rs es cs.length }
    | _ => p

/-- The Command Processor takes the answer to one of its reads (R178, R182). -/
def commandRead (o : Origin) (d : Option (List Byte)) (s : State) : State :=
  match o, s.cmd.phase with
  | .descRead, .reading => s.updCmd fun p => { p with phase := .fetched d }
  | .recordRead l, .validating rs es n =>
    let s1 := s.updCmd fun p => { p with phase := .validating (rs ++ [(l, d)]) es n }
    if rs.length = 1 then readTable (((rs ++ [(l, d)]).find? fun x => x.1 == 0).elim none (·.2)) s1 else s1
  | .tableRead c, .validating rs es n => s.updCmd fun p => { p with phase := .validating rs (es ++ [(c, d)]) n }
  | _, _ => s

/-- An own response goes to the block that generated the request (R160). -/
def ownAnswer (r : OwnReq) (st : MemStatus) (data : List Byte) (s : State) : State :=
  let s1 := commandRead r.origin (if st = .ok then some data else none) s
  if r.origin.keeps st then
    s1.updPath fun p => { p with returns := p.returns ++ [{ req := r, status := st, data := data }] }
  else s1

def Outst.hasTag (t : BitVec 5) (o : Outst) : Bool := o.tag == t

/-- The length of the data an OK answer to a read must carry (R158). -/
def Issued.dataOk (i : Issued) (st : MemStatus) (data : List Byte) : Bool :=
  match st, i with
  | .memerr, _ => true
  | .ok, .fwd f => !f.req.isRead || data.length == f.req.len
  | .ok, .own r => (match r.kind with
    | .read => data.length == r.len
    | .write _ _ => true)

/-- A memory-side response is matched to the first request on its tag's outstanding list (R160); one that matches nothing is
discarded. -/
def execMemoryResponse (tag : BitVec 5) (st : MemStatus) (data : List Byte) (s : State) : Answered :=
  if !(Instr.memoryResponse tag st data).wf then .fault .linkViolation
  else if s.resetAsserted then .next s
  else
    match s.path.outst.find? (Outst.hasTag tag) with
    | none => .next s
    | some o =>
      if !o.what.dataOk st data then .fault .linkViolation
      else
        let s1 := s.updPath fun p => { p with outst := p.outst.eraseP (Outst.hasTag tag) }
        match o.what with
        | .fwd f =>
          .next (closeEvent (s1.updPath
            (Path.ready f.id { tag := f.req.tag, status := statusOf st, data := s.answerData f st data })))
        | .own r => .next (closeEvent (ownAnswer r st data s1))

/-- A ready response whose request is the first on its list is sent, and the request leaves the list (R159). -/
def execProcessorResponse (tag : BitVec 5) (s : State) : Answered :=
  if s.resetAsserted then .next s
  else
    match s.path.answers.find? fun a => a.tag == tag with
    | none => .next s
    | some a =>
      match a.resp with
      | none => .next s
      | some r =>
        .next (closeEvent (s.updPath fun p =>
          { p with answers := p.answers.eraseP (fun a => a.tag == tag), procOut := some r }))

end Sys2Proof.Machine
end

