-- ==== Sys2Proof/Machine/Snoop.lean ====
section
/-! DEFINITION. Writes judged at the head of the forward stream: RING_SLOT_WRITE, FILL_COUNT_WRITE, CLOSED_FLAG_WRITE,
CONSUMED_COUNT_WRITE, OWNER_WORD_WRITE (02, 08, 09, 10). -/

namespace Sys2Proof.Machine

/-! ## Fill count and closed flag (R24, R25) -/

/-- The FILL_INVALID notices a write posts for one channel (R24, R25): the fill first. -/
def judgeChan (r : Req) (s : State) (i : Nat) : State :=
  match s.chanAt i with
  | none => s
  | some c =>
    let s1 := if s.fillCovered c r && !s.fillValid c r then
        post (s.chanNotice i c (.fillInvalid false (s.newFill c r))) s
      else s
    if s.closedCovered c r && !s.closedValid c r then post (s1.chanNotice i c (.fillInvalid true 0)) s1 else s1

/-- A valid write's values are taken: fill, then closed (R24, R25), and the state is recomputed (R46). -/
def takeChan (r : Req) (s : State) (i : Nat) : State :=
  match s.chanAt i with
  | none => s
  | some c =>
    if s.fillCovered c r || s.closedCovered c r then
      recomputeChan (s.setChan i fun d =>
        { d with
          fill := if s.fillCovered c r then s.newFill c r else d.fill
          closed := d.closed || (s.closedCovered c r && s.newClosed c r) }) i
    else s

/-! ## The consumed count (R197) -/

/-- A valid count is taken; waiting notices drain; when the buffer empties, NOTICE_FULL leaves the set (R111, R196, R197). -/
def takeConsumed (x : Word32) (s : State) : State :=
  match s.regions with
  | none => s
  | some g =>
    let was := s.ntc.overflow
    let s1 := s.updNtc fun u => { u with consumed := x, due := true }
    let s2 := drainOverflow g was s1
    if !was.isEmpty && s2.ntc.overflow.isEmpty then holdOff .noticeFull s2 else s2

/-! ## Owner words (R167, R177) -/

/-- INTERPOSER is taken when every byte of the owner word is enabled and holds the code (R177). -/
def State.newOwner (s : State) (r : Req) (i : BitVec 5) : Bool :=
  coversAll r (s.slotAddr i) 4 && leNat (bytesAt r (s.slotAddr i) 4) == 1

/-- The owner value of a slot is taken (R177). While an UNCONFIGURE takes effect no slot begins: the slot stays pending (log 21). -/
def takeOwner (i : BitVec 5) (interposer : Bool) (s : State) : State :=
  if interposer then
    if i = s.cmd.n ∧ s.cmd.phase = .idle then beginSlot s
    else s.updCmd fun c => { c with pend := if c.pend.contains i then c.pend else c.pend ++ [i] }
  else s.updCmd fun c => { c with pend := c.pend.filter fun j => j != i }

/-! ## The judgement of the head (R164, R165) -/

/-- The notices of a refusal: those of the invalid fields' owners (R165), or RING_GUARD (R168). -/
def postRefusal (f : Fwd) (s : State) : State :=
  match f.cls with
  | .guarded =>
    (match s.guardRefuses f.req with
     | none => s
     | some (i, c) => post (s.chanNotice i c (.ringGuard f.req.addr c.retain c.fill)) s)
  | _ => (List.range s.front.chans.length).foldl (judgeChan f.req) s

/-- Each owner takes its field's new value as the write issues (R164, R165). -/
def takeFields (f : Fwd) (s : State) : State :=
  match f.cls with
  | .guarded => s
  | _ =>
    let s1 := (List.range s.front.chans.length).foldl (takeChan f.req) s
    let s2 := if s.coversConsumed f.req then takeConsumed (s.newConsumed f.req) s1 else s1
    let s3 := (match s.slotOf f.req with
      | none => s2
      | some i => if covers f.req (s.slotAddr i) 4 then takeOwner i (s.newOwner f.req i) s2 else s2)
    settle s3

/-- A refused write leaves the head and is answered REFUSED (R162, R164). A write to a command slot whose processing began after
the write had been offered takes its offer with it (log 36). -/
def refuseHead (f : Fwd) (s : State) : State :=
  s.updPath fun p =>
    let q := Path.ready f.id (refusal f.req.tag) p.popFwd
    { q with offer := if q.offer = some .fwd then none else q.offer }

/-- The judgement, the issue of a valid write and the taking of its values are one event (R164). A valid write issues when it is the
request the arbiter offers. The request that becomes head when a refused write leaves notes the refusal's notice writes, and behind a
valid write it notes neither what the taken values generate nor the status rewrite (log 41). -/
def judgeRow (here : State → Fwd → Bool) (s : State) : Answered :=
  match s.path.fwd with
  | [] => .next s
  | f :: _ =>
    if !s.resetAsserted && s.judged f && here s f && s.path.headEligible then
      if s.headValid f then
        if s.path.offer = some .fwd then .next (closeEvent (takeFields f (s.updPath Path.issueFwd))) else .next s
      else .next (closeEvent (refuseHead f (postRefusal f s)))
    else .next s

def execRingSlotWrite (s : State) : Answered := judgeRow (fun _ f => f.cls == .guarded) s

def execFillCountWrite (s : State) : Answered := judgeRow (fun s f => f.cls == .snooped && s.coversFill f.req) s

def execClosedFlagWrite (s : State) : Answered := judgeRow (fun s f => f.cls == .snooped && s.coversClosed f.req) s

def execConsumedCountWrite (s : State) : Answered := judgeRow (fun s f => f.cls == .snooped && s.coversConsumed f.req) s

def execOwnerWordWrite (s : State) : Answered := judgeRow (fun s f => f.cls == .snooped && s.coversOwner f.req) s

end Sys2Proof.Machine
end

