-- ==== Sys2Proof/Machine/Dispatch.lean ====
section
/-! DEFINITION. The meaning of every command: one arm per row of spec/opcode_table.json. -/

namespace Sys2Proof.Machine

def exec (i : Instr) (s : State) : Host.Outcome State Fault Refusal :=
  match i with
  | .resetLine => Sys2Proof.Machine.execResetLine s
  | .pointRead r => Sys2Proof.Machine.execPointRead r s
  | .aliasRead r => Sys2Proof.Machine.execAliasRead r s
  | .windowWrite r => Sys2Proof.Machine.execWindowWrite r s
  | .aliasWrite r => Sys2Proof.Machine.execAliasWrite r s
  | .partOwnedWrite r => Sys2Proof.Machine.execPartOwnedWrite r s
  | .passRequest r => Sys2Proof.Machine.execPassRequest r s
  | .ringSlotWrite => Sys2Proof.Machine.execRingSlotWrite s
  | .fillCountWrite => Sys2Proof.Machine.execFillCountWrite s
  | .closedFlagWrite => Sys2Proof.Machine.execClosedFlagWrite s
  | .consumedCountWrite => Sys2Proof.Machine.execConsumedCountWrite s
  | .ownerWordWrite => Sys2Proof.Machine.execOwnerWordWrite s
  | .memorySideTake ownTag => Sys2Proof.Machine.execMemorySideTake ownTag s
  | .ownQueueEnqueue => Sys2Proof.Machine.execOwnQueueEnqueue s
  | .memoryResponse tag status data => Sys2Proof.Machine.execMemoryResponse tag status data s
  | .processorResponse tag => Sys2Proof.Machine.execProcessorResponse tag s
  | .fetchIssue phys => Sys2Proof.Machine.execFetchIssue phys s
  | .recordLoad phys => Sys2Proof.Machine.execRecordLoad phys s
  | .fetchDiscardedReturn => Sys2Proof.Machine.execFetchDiscardedReturn s
  | .journalEntryWritten => Sys2Proof.Machine.execJournalEntryWritten s
  | .journalWrap => Sys2Proof.Machine.execJournalWrap s
  | .starvationExpiry => Sys2Proof.Machine.execStarvationExpiry s
  | .paceAdvance => Sys2Proof.Machine.execPaceAdvance s
  | .groupAdmit => Sys2Proof.Machine.execGroupAdmit s
  | .formationPull => Sys2Proof.Machine.execFormationPull s
  | .filterWordRead => Sys2Proof.Machine.execFilterWordRead s
  | .commitBegin => Sys2Proof.Machine.execCommitBegin s
  | .commitItem => Sys2Proof.Machine.execCommitItem s
  | .commitBoundary => Sys2Proof.Machine.execCommitBoundary s
  | .ownAccessError => Sys2Proof.Machine.execOwnAccessError s
  | .commitRestored => Sys2Proof.Machine.execCommitRestored s
  | .undoStepBegin => Sys2Proof.Machine.execUndoStepBegin s
  | .undoEntry => Sys2Proof.Machine.execUndoEntry s
  | .undoStepBoundary => Sys2Proof.Machine.execUndoStepBoundary s
  | .undoStepRestored => Sys2Proof.Machine.execUndoStepRestored s
  | .configure => Sys2Proof.Machine.execConfigure s
  | .configureValidation => Sys2Proof.Machine.execConfigureValidation s
  | .regionMapChange => Sys2Proof.Machine.execRegionMapChange s
  | .imagePassWord => Sys2Proof.Machine.execImagePassWord s
  | .unconfigure => Sys2Proof.Machine.execUnconfigure s
  | .unconfigureEffect => Sys2Proof.Machine.execUnconfigureEffect s
  | .run => Sys2Proof.Machine.execRun s
  | .step => Sys2Proof.Machine.execStep s
  | .stop => Sys2Proof.Machine.execStop s
  | .setPace => Sys2Proof.Machine.execSetPace s
  | .setStopTime => Sys2Proof.Machine.execSetStopTime s
  | .setStopCount => Sys2Proof.Machine.execSetStopCount s
  | .setSkew => Sys2Proof.Machine.execSetSkew s
  | .setChannel => Sys2Proof.Machine.execSetChannel s
  | .mark => Sys2Proof.Machine.execMark s
  | .dropMark => Sys2Proof.Machine.execDropMark s
  | .rewind => Sys2Proof.Machine.execRewind s
  | .stepBack => Sys2Proof.Machine.execStepBack s
  | .rewindStart => Sys2Proof.Machine.execRewindStart s
  | .watchSet => Sys2Proof.Machine.execWatchSet s
  | .watchClear => Sys2Proof.Machine.execWatchClear s
  | .setPresentation => Sys2Proof.Machine.execSetPresentation s
  | .holdCapture => Sys2Proof.Machine.execHoldCapture s
  | .setDwell => Sys2Proof.Machine.execSetDwell s
  | .setOverridePolicy => Sys2Proof.Machine.execSetOverridePolicy s
  | .releaseOverride => Sys2Proof.Machine.execReleaseOverride s
  | .queryPoint => Sys2Proof.Machine.execQueryPoint s
  | .commandWaitEnd => Sys2Proof.Machine.execCommandWaitEnd s
  | .resetRelease => Sys2Proof.Machine.execResetRelease s
  | .descriptorRejected => Sys2Proof.Machine.execDescriptorRejected s

end Sys2Proof.Machine
end

