-- ==== Sys2Proof/Machine/Step.lean ====
section
/-! DEFINITION. A step of the block: the command at the front of the queue is run on the rest; on an empty queue a µs of wall time
passes (log 4). -/

namespace Sys2Proof.Machine

/-- The queue changes, and nothing else. -/
def State.setPending (s : State) (q : List Instr) : State := { s with pending := q }

def step (s : State) : Host.Outcome State Fault Refusal :=
  match s.pending with
  | [] => .next (tick s)
  | c :: rest => exec c (s.setPending rest)

/-- The command a word of the table spells goes to the front of the queue; no word spells one. -/
def State.withFetchWord (s : State) (nbits w : Nat) : State :=
  match decodeTableWord nbits w with
  | none => s
  | some c => s.setPending (c :: s.pending)

end Sys2Proof.Machine
end

