-- ==== Sys2Proof/Safety.lean ====
section
/-! DEFINITION. What a run may rely on: capacities that no step exceeds, when the lane is HOLDING, and the words in which statements
speak of own traffic, answers and what a command leaves unchanged. -/

namespace Sys2Proof.Machine

/-! ## Capacities and laws of State -/

/-- R145: at most 256 overrides, never two for one point. -/
def State.overridesOk (s : State) : Prop := s.ovr.length ≤ Config.overrideMax ∧ (s.ovr.map (·.point)).Nodup

/-- R63: at most 64 held changes, never two for one point. -/
def State.dwellOk (s : State) : Prop := s.merge.dwell.length ≤ Config.dwellMax ∧ (s.merge.dwell.map (·.point)).Nodup

/-- R196: the overflow buffer never holds more than 48 notices. -/
def State.overflowOk (s : State) : Prop := s.ntc.overflow.length ≤ Config.overflowMax

/-- R127: at most 8 marks. -/
def State.marksOk (s : State) : Prop := s.jrn.marks.length ≤ Config.markMax

/-- R159, R169, R171, R173: the queues of the memory path and the pass count. -/
def Path.ok (p : Path) : Prop :=
  p.held.length ≤ Config.heldMax ∧ p.answers.length ≤ Config.answerMax ∧ p.ownQ.length ≤ Config.ownMax ∧ p.pass ≤ 3

/-- R100: the lane is HOLDING exactly when its hold-reason set is non-empty. -/
def Timeline.holdsOk (t : Timeline) : Prop := t.lane = .holding ↔ t.holds.isEmpty = false

/-- R103: the pace accumulator is 0 but in RUNNING with run mode PACED, and 0 there too while C stands at or above its limit. -/
def State.paceOk (s : State) : Prop :=
  (s.paced = false → s.lane.acc = 0) ∧ (s.paced = true → s.paceLimit ≤ (s.lane.c.toNat : Int) → s.lane.acc = 0)

/-- What may be in flight in which lane state: a walk in REWINDING or FAULTED, with no group (R119, R131, R141); a group in RUNNING,
STEPPING or FAULTED (R77, R102, R107); the pass over the image in CONFIGURING (R20). A STOP that waits is not met by a rewind or a
CONFIGURE (R107, R181), and a rewind that is to start finds no group in flight (R131). -/
def State.flightsOk (s : State) : Prop :=
  (s.jrn.walk ≠ none → (s.lane.lane = .rewinding ∨ s.lane.lane = .faulted) ∧ s.commit.fly = none) ∧
  (s.commit.fly ≠ none → s.lane.lane = .running ∨ s.lane.lane = .stepping ∨ s.lane.lane = .faulted) ∧
  (s.img ≠ none → s.lane.lane = .configuring) ∧
  (s.cmd.phase = .waiting .stop → s.lane.lane ≠ .rewinding ∧ s.lane.lane ≠ .configuring) ∧
  ∀ w, s.cmd.phase = .starting w → s.commit.fly = none ∧ s.lane.lane ≠ .configuring

/-- R90: C is never less than R. What R can become without a new admission is not above C either: the time of the group in flight, and the
R that a failed undo step takes back, with the C it takes back (R101, R141). -/
def State.clockOk (s : State) : Prop :=
  s.lane.r.toNat ≤ s.lane.c.toNat ∧ (∀ f, s.commit.fly = some f → f.tg.toNat ≤ s.lane.c.toNat) ∧
    ∀ w, s.jrn.walk = some w → w.phase.stepRuns = true → w.snap.r.toNat ≤ w.snap.c.toNat

/-- The capacities of the tables and queues together. -/
def State.capacitiesOk (s : State) : Prop :=
  s.overridesOk ∧ s.dwellOk ∧ s.overflowOk ∧ s.marksOk ∧ s.path.ok

/-- R60, R71, R78: at most 512 items in the stager. R30: at most 4 places of each head buffer hold a fetch in flight or a checked record. -/
def State.placesOk (s : State) : Prop :=
  s.stager.cur.length + s.stager.late.length ≤ Config.stagerPlaces ∧
    ∀ c ∈ s.front.chans, c.heads.length ≤ Config.headPlaces

/-- Every channel shows the state R46 gives it: no recomputation is owed. -/
def State.settled (s : State) : Prop := ∀ c ∈ s.front.chans, c.calc = c.st

/-- R41, R47: a LAGGING channel holds no checked record. -/
def State.laggingOk (s : State) : Prop := ∀ c ∈ s.front.chans, c.lagging = true → c.heads.any Place.isChecked = false

/-- The tables of fixed size: 16 skew offsets and as many pending ones, 32 watch slots and a match count for each, and 20 status lines
(R43, R93, R94, R115, R200). -/
def State.sizesOk (s : State) : Prop :=
  s.front.offsets.length = 16 ∧ s.lane.pend.skew.length = 16 ∧ s.commit.watches.length = 32 ∧ s.ntc.status.length = 20 ∧
    (∀ f, s.commit.fly = some f → f.hits.length = 32) ∧ ∀ c, s.cmd.phase = .mapChange c → c.record.skews.length = 16

/-! ## Own traffic -/

/-- Own requests that the memory side has not taken. -/
def Path.own (p : Path) : List OwnReq := p.ownQ ++ p.waiting

/-- The part owes the memory side this write of whole bytes. -/
def State.owesWrite (t : State) (o : Origin) (a : Nat) (bs : List Byte) : Prop :=
  ∃ q ∈ t.path.own, q.origin = o ∧ q.addr = BitVec.ofNat 40 a ∧ q.kind = .write bs (fullMask bs.length)

/-- The part owes the memory side this read. -/
def State.owesRead (t : State) (o : Origin) (a n : Nat) : Prop :=
  ∃ q ∈ t.path.own, q.origin = o ∧ q.addr = BitVec.ofNat 40 a ∧ q.len = n ∧ q.kind = .read

/-- The result write of the slot being processed: the result code and the result data (R178). -/
def State.resultReq (s : State) (res : Nat) (data : List Byte) (q : OwnReq) : Prop :=
  q.origin = .resultWrite ∧ q.addr = BitVec.ofNat 40 (s.slotAddr s.cmd.n) ∧ q.kind = .write (resultLine res data) resultMask

/-- The owner write of the slot being processed: SOFTWARE, in the four bytes of the owner word alone (R178). -/
def State.ownerReq (s : State) (q : OwnReq) : Prop :=
  q.origin = .ownerWrite ∧ q.addr = BitVec.ofNat 40 (s.slotAddr s.cmd.n) ∧
    q.kind = .write (leBytes 8 0) [true, true, true, true, false, false, false, false]

/-- The slot being processed in `s` is answered in `t`: the result write is owed, the owner write behind it, and N has advanced
(R178). -/
def Answers (s t : State) (res : Nat) (data : List Byte) : Prop :=
  (∃ a q b r c, t.path.own = a ++ q :: b ++ r :: c ∧ s.resultReq res data q ∧ s.ownerReq r) ∧ t.cmd.n = s.cmd.n + 1

/-! ## Byte layouts -/

/-- The `n` bytes of a structure hold the fields listed, each with its offset, its size and its value, and 0 in every other byte (R204). -/
def Laid (n : Nat) (fs : List (Nat × Nat × Nat)) (bs : List Byte) : Prop :=
  bs.length = n ∧ (∀ x ∈ fs, field bs x.1 x.2.1 = x.2.2) ∧
    ∀ i, i < n → (∀ x ∈ fs, i < x.1 ∨ x.1 + x.2.1 ≤ i) → field bs i 1 = 0

/-- The fields of a point word at offset `o` (FORMAT.WORD). -/
def PointWord.layout (o : Nat) (w : PointWord) : List (Nat × Nat × Nat) :=
  [(o, 4, w.value.toNat), (o + 4, 1, w.quality.toNat), (o + 5, 1, w.count.toNat), (o + 6, 1, w.source.toNat), (o + 7, 1, w.phase.toNat)]

/-- The common header of a journal entry (FORMAT.JOURNAL): kind, flags, logical channel, byte 3, ring position, point. -/
def headLayout (kind flags chan b3 pos point : Nat) : List (Nat × Nat × Nat) :=
  [(0, 1, kind), (1, 1, flags), (2, 1, chan), (3, 1, b3), (4, 4, pos), (8, 2, point)]

/-- A held value and its quality in one byte: bits 0..1 value, bit 2 INVALID, bit 3 SUSPECT (R206). -/
def heldField (o : Nat) (v : Word32) (q : BitVec 8) : Nat × Nat × Nat := (o, 1, v.toNat % 4 + 4 * (q.toNat % 4))

/-- The fields of a journal entry (FORMAT.JOURNAL). An absent old last-change or last-good leaves its bytes 0 (log 53), and the absent channel
the sentinel of R204. -/
def JEntry.layout : JEntry → List (Nat × Nat × Nat)
  | .applied ch pos p late unf dw oc og ow lead =>
    headLayout 1 ((if late then 1 else 0) + (if unf then 2 else 0) + if dw then 4 else 0) ch.toNat
      ((if oc.isSome then 1 else 0) + if og.isSome then 2 else 0) pos.toNat p.toNat ++
      [(10, 6, oc.elim 0 fun x => x.1.toNat)] ++ ow.layout 16 ++
      [(24, 4, og.elim 0 fun x => x.toNat), (28, 2, lead.toNat), (30, 1, oc.elim 0xFF fun x => x.2.toNat)]
  | .duplicate ch pos p ow => headLayout 2 0 ch.toNat 0 pos.toNat p.toNat ++ ow.layout 16
  | .held ch pos p v q t => headLayout 3 0 ch.toNat 0 pos.toNat p.toNat ++ [(10, 6, t.toNat), heldField 16 v q]
  | .chatter ch pos p ow h lead =>
    headLayout 4 0 ch.toNat 0 pos.toNat p.toNat ++ [(10, 6, h.time.toNat)] ++ ow.layout 16 ++
      [heldField 24 h.value h.quality, (25, 1, h.chan.toNat), (26, 4, h.pos.toNat), (30, 2, lead.toNat)]
  | .superseded ch pos p h =>
    headLayout 5 0 ch.toNat 0 pos.toNat p.toNat ++
      [(10, 6, h.time.toNat), heldField 16 h.value h.quality, (17, 1, h.chan.toNat), (18, 4, h.pos.toNat)]
  | .dropped ch pos p t => headLayout 6 0 ch.toNat 0 pos.toNat p.toNat ++ [(10, 6, t.toNat)]
  | .rejected ch pos p why =>
    headLayout 7 (match why with
      | .check => 1
      | .order => 2
      | .range => 3
      | .kind => 4
      | .point => 5
      | .memory => 6) ch.toNat 0 pos.toNat p.toNat
  | .noPoint ch pos => headLayout 8 0 ch.toNat 0 pos.toNat 0xFFFF
  | .marker ch pos => headLayout 9 0 ch.toNat 0 pos.toNat 0xFFFF
  | .groupEnd num kind t r f n =>
    headLayout 10 (match kind with
      | .timed => 1
      | .split => 2
      | .late => 3) 0xFF 0 num.toNat n.toNat ++ [(10, 6, t.toNat), (16, 6, r.toNat), (22, 6, f.toNat)]
  | .skew set old new => headLayout 11 set.toNat 0xFF 0 0 0xFFFF ++ [(10, 4, old.toNat), (14, 4, new.toNat)]

/-- The row of FORMAT.NOTICE and R207 for a notice's kind: its kind code, its class code, bits 1..7 of byte 1, and its values. -/
def NBody.row : NBody → Nat × Nat × Nat × List (Nat × Nat × Nat)
  | .configured t p s e => (1, 0, 0, [(12, 6, t.toNat), (18, 2, p.toNat), (20, 2, s.toNat), (22, 1, e.toNat)])
  | .stopTime c stop tg => (2, 0, 1, [(12, 6, c.toNat), (18, 6, stop.toNat), (24, 6, tg.toNat)])
  | .stopCount c => (2, 0, 2, [(12, 6, c.toNat)])
  | .stepDone n c => (3, 0, 0, [(12, 2, n.toNat), (14, 6, c.toNat)])
  | .hold why c => (4, 0, (match why with
      | .watch => 1
      | .stopTime => 2
      | .stopCount => 3
      | .noticeFull => 4
      | .anchorStarved => 5), [(12, 6, c.toNat)])
  | .endOfHistory f c => (5, 0, 0, [(12, 6, f.toNat), (18, 6, c.toNat)])
  | .rewindEnded o back g m f c => (6, 0, (match o with
      | .complete => 1
      | .cutShort => 2
      | .faulted => 3) + (if back then 64 else 0), [(12, 3, g.toNat), (15, 1, m.toNat), (16, 6, f.toNat), (22, 6, c.toNat)])
  | .markLost push r g pos => (7, 0, if push then 2 else 1, [(12, 6, r.toNat), (18, 4, g.toNat), (22, 4, pos.toNat)])
  | .fault code addr => (8, 0, (match code with
      | .none => 0
      | .imageRead => 1
      | .imageWrite => 2
      | .journalWrite => 3
      | .journalRead => 4
      | .noticeWrite => 5
      | .statusWrite => 6), [(12, 5, addr.toNat)])
  | .watchHit slot n v => (9, 1, slot.toNat, [(16, 2, n.toNat), (18, 4, v.toNat)])
  | .lagging t => (10, 2, 0, [(16, 6, t.toNat)])
  | .rejoined bySet t => (11, 2, if bySet then 1 else 0, [(16, 6, t.toNat)])
  | .drained t => (12, 2, 0, [(16, 6, t.toNat)])
  | .seqBreak expected found => (13, 2, 0, [(16, 4, expected.toNat), (20, 4, found.toNat)])
  | .rejected why => (14, 3, (match why with
      | .check => 1
      | .order => 2
      | .range => 3
      | .kind => 4
      | .point => 5
      | .memory => 6), [])
  | .lateRecord full t => (15, 3, if full then 2 else 1, [(16, 6, t.toNat)])
  | .marker v => (16, 3, 0, [(16, 4, v.toNat)])
  | .groupSplit tg n => (17, 3, 0, [(16, 6, tg.toNat), (22, 2, n.toNat)])
  | .dwellFull => (18, 3, 0, [])
  | .overrideFull needed free => (19, 4, 0, [(16, 2, needed.toNat), (18, 2, free.toNat)])
  | .overrideEnded v r g => (20, 4, 0, [(16, 4, v.toNat), (20, 6, r.toNat), (26, 4, g.toNat)])
  | .ringGuard addr retain fill => (21, 5, 0, [(16, 5, addr.toNat), (24, 4, retain.toNat), (28, 4, fill.toNat)])
  | .fillInvalid closed v => (22, 5, if closed then 2 else 1, [(16, 4, v.toNat)])

/-- The fields of a notice record (FORMAT.NOTICE, R207): a LANE notice names no point and no channel, and another shows the sentinels of
R204 where it names none. -/
def Notice.layout (n : Notice) : List (Nat × Nat × Nat) :=
  [(0, 1, n.body.row.1 + 32 * n.body.row.2.1), (1, 1, (if n.arch.isSome then 1 else 0) + 2 * n.body.row.2.2.1), (2, 6, n.time.toNat),
    (8, 4, n.group.toNat)] ++
    (if n.body.row.2.1 = 0 then []
     else [(12, 2, n.point.elim 0xFFFF fun p => p.toNat), (14, 1, n.chan.elim 0xFF fun c => c.1.toNat),
           (15, 1, n.chan.elim 0xFF fun c => c.2.toNat)]) ++
    n.body.row.2.2.2 ++ n.arch.elim [] fun a => [(24, 8, a.toNat)]

/-- An archive reference stands in WATCH, CHANNEL and RECORD notices alone: the values of the others may reach past byte 24 (R207). -/
def Notice.archOk (n : Notice) : Prop :=
  n.arch ≠ none → n.body.row.2.1 = 1 ∨ n.body.row.2.1 = 2 ∨ n.body.row.2.1 = 3

/-! ## What is left unchanged -/

/-- The pins, the time base, the queue and the model's counter. -/
def KeepsPins (s t : State) : Prop :=
  t.pending = s.pending ∧ t.resetAsserted = s.resetAsserted ∧ t.cbStraps = s.cbStraps ∧ t.wallUs = s.wallUs

/-- The region map, the Point Directory, the Override Table and the CONFIGURING pass. -/
def KeepsImage (s t : State) : Prop := t.regions = s.regions ∧ t.dir = s.dir ∧ t.ovr = s.ovr ∧ t.img = s.img

/-- The channels, the merge, the stager, the Commit Unit and the journal. -/
def KeepsHistory (s t : State) : Prop :=
  t.front = s.front ∧ t.merge = s.merge ∧ t.stager = s.stager ∧ t.commit = s.commit ∧ t.jrn = s.jrn

/-- Every block but the memory path and the Notice Unit. -/
def KeepsBlocks (s t : State) : Prop :=
  KeepsPins s t ∧ KeepsImage s t ∧ KeepsHistory s t ∧ t.lane = s.lane ∧ t.cmd = s.cmd ∧ t.freeIdx = s.freeIdx

/-- The memory path but for own requests that join behind those it holds, and the arbiter's look at its contenders. -/
def KeepsPath (s t : State) : Prop :=
  t.path.answers = s.path.answers ∧ t.path.fwd = s.path.fwd ∧ t.path.headNote = s.path.headNote ∧ t.path.held = s.path.held ∧
    t.path.outst = s.path.outst ∧ t.path.returns = s.path.returns ∧ t.path.nextId = s.path.nextId ∧
    t.path.procOut = s.path.procOut ∧ s.path.own <+: t.path.own

/-- The notice counts, the overflow buffer and what CONFIGURE latched of the Notice Unit. -/
def KeepsNotices (s t : State) : Prop :=
  t.ntc.produced = s.ntc.produced ∧ t.ntc.consumed = s.ntc.consumed ∧ t.ntc.discarded = s.ntc.discarded ∧
    t.ntc.overflow = s.ntc.overflow ∧ t.ntc.mask = s.ntc.mask ∧ t.ntc.lineEn = s.ntc.lineEn ∧ t.ntc.works = s.ntc.works

/-- A request of the processor side joins the answer lists under its tag (R159). -/
def JoinsAnswers (s t : State) (r : Req) (win : Bool) (resp : Option Resp) : Prop :=
  t.path.answers = s.path.answers ++ [{ id := s.path.nextId, tag := r.tag, win := win, resp := resp }]

/-- The memory side and the own traffic: nothing issued, nothing returned, own requests only join behind. -/
def KeepsMemorySide (s t : State) : Prop :=
  t.path.outst = s.path.outst ∧ t.path.returns = s.path.returns ∧ s.path.own <+: t.path.own

/-- A notice has been posted as R195 states, and nothing else changed the notice counts or the overflow buffer. -/
def Posted (n : Notice) (s t : State) : Prop := KeepsNotices (post n s) t ∧ (post n s).path.own <+: t.path.own

/-- Notices have been posted in order as R195 states, and nothing else changed the notice counts or the overflow buffer. -/
def PostedAll (ns : List Notice) (s t : State) : Prop :=
  KeepsNotices (ns.foldl (fun u n => post n u) s) t ∧ (ns.foldl (fun u n => post n u) s).path.own <+: t.path.own

/-- The FILL_INVALID notices of the invalid fields a write covers, channel by channel, the fill before the closed flag (R24, R25, R165). -/
def State.invalidFields (s : State) (r : Req) : List Notice :=
  (List.range s.front.chans.length).flatMap fun i =>
    match s.chanAt i with
    | none => []
    | some c =>
      (if s.fillCovered c r && !s.fillValid c r then [s.chanNotice i c (.fillInvalid false (s.newFill c r))] else []) ++
        if s.closedCovered c r && !s.closedValid c r then [s.chanNotice i c (.fillInvalid true 0)] else []

/-- The first notice of the event is `n`: where it is not masked and the ring takes it, its record is owed at the produced count's
position (R193, R195). -/
def PostsFirst (n : Notice) (s t : State) : Prop :=
  ∀ g, s.regions = some g → n.body.cls.masked s.ntc.mask = false → s.ntc.works = true → s.ntc.overflow = [] →
    s.ringRoom g = true → t.owesWrite .noticeWrite (g.nBase + 32 * (s.ntc.produced.toNat % 2 ^ g.nExp)) n.encode

/-- The notice `n` is posted in the event, among others perhaps: where it is not masked and the ring works, it has a place in the ring,
or waits in the overflow buffer, or has found that buffer full for its class (R195, R196). -/
def PostsIn (n : Notice) (s t : State) : Prop :=
  ∀ g, s.regions = some g → n.body.cls.masked s.ntc.mask = false → s.ntc.works = true →
    (∃ k : Word32, t.owesWrite .noticeWrite (g.nBase + 32 * (k.toNat % 2 ^ g.nExp)) n.encode) ∨ n ∈ t.ntc.overflow ∨
      (if n.body.cls.essential then 48 else 8) ≤ t.ntc.overflow.length

/-- A LANE notice as the lane stands in `t` (R207). -/
def PostsLane (b : NBody) (s t : State) : Prop :=
  PostsIn { time := t.lane.r, group := t.lane.group, point := none, chan := none, arch := none, body := b } s t

/-- A notice of channel `c`, number `i`, with the R and group number that stand in `s` (R22, R207). -/
def PostsChan (i : Nat) (c : Chan) (b : NBody) (s t : State) : Prop :=
  PostsIn { time := s.lane.r, group := s.lane.group, point := none, chan := some (c.phys, BitVec.ofNat 6 i), arch := none,
            body := b } s t

/-- CHANNEL_DRAINED of channel `c`, number `i`, with its last accepted corrected time, or a free value where it has none (R48). -/
def PostsDrained (i : Nat) (c : Chan) (s t : State) : Prop :=
  ∃ v, (∀ x, c.lastCt = some x → v = shown x) ∧ PostsChan i c (.drained v) s t

/-- The values SET_CHANNEL left pending in channel `c` are taken in `d`, and none is left; a LAGGING channel that becomes an anchor
leaves LAGGING (R26, R47). -/
def Chan.takesSet (c d : Chan) : Prop :=
  d.pendSet = none ∧ (c.pendSet = none → d.late = c.late ∧ d.anchor = c.anchor) ∧
    ∀ lp an, c.pendSet = some (lp, an) → d.late = lp ∧ d.anchor = an ∧ (an = true → d.lagging = false)

/-- CHANNEL_REJOINED is posted for a LAGGING channel that SET_CHANNEL's values, taken at a boundary, make an anchor (R26, R47). -/
def RejoinsAnchor (i : Nat) (c : Chan) (s t : State) : Prop :=
  ∀ lp, c.calc = .lagging → c.pendSet = some (lp, true) →
    PostsIn { time := t.lane.r, group := t.lane.group, point := none, chan := some (c.phys, BitVec.ofNat 6 i), arch := none,
              body := .rejoined true 0 } s t

/-- A point's directory entry after a list of writes, newest first, has been restored: the last-change and last-good that its oldest write
of the list kept (R96). -/
def DirEntry.restoredBy (ws : List WriteRec) (p : PointNo) (e d : DirEntry) : Prop :=
  ((∀ x ∈ ws, x.point ≠ p) → d = e) ∧
    ∀ newer older x, ws = newer ++ x :: older → x.point = p → (∀ y ∈ older, y.point ≠ p) →
      d = { e with lastChange := x.oldChange, lastGood := x.oldGood }

/-- The directory after a list of writes has been restored. -/
def DirRestored (ws : List WriteRec) (s t : State) : Prop :=
  ∀ p e, s.dirAt p = some e → ∃ d, t.dirAt p = some d ∧ e.restoredBy ws p d

/-- The own writes a request notes as it reaches the head: those not yet issued, to its 64-byte line (R172). -/
def Path.notes (p : Path) (f : Fwd) (n : Nat) : Prop :=
  ∃ r ∈ p.own, r.kind ≠ .read ∧ r.addr.toNat / 64 = f.req.addr.toNat / 64 ∧ r.serial = n

/-- One entry is journaled in the event: where the journal can place it at once, the head advances by one and the entry's write is owed
at the head's place (R123, R125). -/
def Journals (o : Origin) (e : JEntry) (s t : State) : Prop :=
  ∀ g, s.regions = some g → s.jrn.inq = [] → s.jrn.wrapRead = none → s.jrnFull g = false →
    t.jrn.head = s.jrn.head + 1 ∧ t.owesWrite o (g.entryAddr s.jrn.head) e.encode

/-- The entry's write is owed at the head's place, where the journal can place it at once (R123, R125). -/
def Places (o : Origin) (e : JEntry) (s t : State) : Prop :=
  ∀ g, s.regions = some g → s.jrn.inq = [] → s.jrn.wrapRead = none → s.jrnFull g = false →
    t.owesWrite o (g.entryAddr s.jrn.head) e.encode

/-- The head of the forward stream, eligible to be judged (R164, R172). -/
def State.judges (s : State) (f : Fwd) (rest : List Fwd) : Prop :=
  s.resetAsserted = false ∧ s.path.fwd = f :: rest ∧ s.path.headEligible = true

/-- The judged write is refused: it leaves the head and its response is REFUSED; nothing issues (R162, R164). -/
def RefusesHead (s t : State) (f : Fwd) (rest : List Fwd) : Prop :=
  t.path.fwd = rest ∧ t.path.outst = s.path.outst ∧ t.path.held = s.path.held ∧ t.path.returns = s.path.returns ∧
    t.path.answers = s.path.answers.map fun a => if a.id == f.id then { a with resp := some (refusal f.req.tag) } else a

/-- The judged write is issued (R160, R164). -/
def IssuesHead (s t : State) (f : Fwd) (rest : List Fwd) : Prop :=
  t.path.fwd = rest ∧ t.path.outst = s.path.outst ++ [{ tag := f.req.tag, what := .fwd f }] ∧ t.path.held = s.path.held ∧
    t.path.answers = s.path.answers ∧ t.path.returns = s.path.returns

/-- The place of the fetch with serial number `n` (R31). -/
def Place.holdsFetch (n : Nat) : Place → Bool
  | .inflight m _ => m == n
  | .checked _ => false

/-- A fetch of logical channel `i` has returned, and its place is the oldest that holds no checked record (R32). -/
def State.fetchReturned (s : State) (phys : ChanNo) (i : Nat) (c : Chan) (n : Nat) (pos : Pos) (r : Ret) : Prop :=
  s.resetAsserted = false ∧ s.draining = false ∧ s.logical phys = some i ∧ s.chanAt i = some c ∧
    c.nextLoad = some (n, pos) ∧ s.path.ret (Ret.isFor n) = some r

/-- The data of channel `c`'s fetch passes every check and makes the record `rc` of kind `k`, with corrected time `ct` (R35, R41, R43). -/
def State.accepts (s : State) (c : Chan) (pos : Pos) (r : Ret) (k : RecKind) (ct : Nat) (rc : Rec) : Prop :=
  r.status = .ok ∧ s.recordFault c r.data = none ∧ rawKind r.data = some k ∧
    (rawTimestamp r.data : Int) + s.offsetOf c = (ct : Int) ∧
    rc = { pos := pos, ts := BitVec.ofNat 48 (rawTimestamp r.data), ct := BitVec.ofNat 48 ct, kind := k,
           point := rawPoint r.data, quality := rawQuality r.data, value := rawValue r.data, arch := rawArchive r.data }

/-- A rewrite of the status block is owed at the end of the event in hand (R201). -/
def State.rewriteOwed (s : State) : Bool := s.ntc.due && s.lane.lane.statusWritten && !s.draining

/-- A channel but for its state, which R46 recomputes. -/
def Chan.lessState (c : Chan) : Chan := { c with st := .empty, lagging := false }

/-- Every channel but number `i` keeps all but its state. -/
def KeepsOtherChans (i : Nat) (s t : State) : Prop :=
  ∀ j, j ≠ i → (t.chanAt j).map Chan.lessState = (s.chanAt j).map Chan.lessState

/-- The skew offsets, the discarded fetches and every channel but for its state. -/
def KeepsChans (s t : State) : Prop :=
  t.front.offsets = s.front.offsets ∧ t.front.discarded = s.front.discarded ∧ ∀ j : Nat, (t.chanAt j).map Chan.lessState = (s.chanAt j).map Chan.lessState

/-- A channel whose checked record at a position has left its head buffer (R33). -/
def Chan.without (p : Pos) (c : Chan) : Chan := { c with heads := c.heads.filter fun x => !(x.isChecked && x.pos == p) }

/-- A channel whose checked record has left and is journaled as a loose entry (R28, R33). -/
def Chan.journaled (p : Pos) (tok : Nat) (c : Chan) : Chan := { c.without p with unj := c.unj ++ [(tok, p)] }

/-- Channel `i` is `c` but for its state, and every other channel keeps all but its state. -/
def BecomesChan (i : Nat) (c : Chan) (s t : State) : Prop :=
  (t.chanAt i).map Chan.lessState = some c.lessState ∧ KeepsOtherChans i s t

/-- The corrected time of a record under a skew offset (R44). -/
def Rec.timeUnder (off : Word32) (r : Rec) : Int := (r.ts.toNat : Int) + off.toInt

/-- A checked record keeps its place when a commit takes F from `a` to `b` (R41). -/
def Rec.staysAt (a b : Time) (r : Rec) : Bool := b.toNat ≤ a.toNat || b.toNat ≤ r.ct.toNat

/-- The places of a head buffer under a new offset with F at `f`: a checked record whose time leaves the range, or falls below F, leaves;
another takes the time (R44). -/
def Place.retimed (off : Word32) (f : Time) : Place → Option Place
  | .inflight n p => some (.inflight n p)
  | .checked r =>
    if 0 ≤ r.timeUnder off ∧ r.timeUnder off < 2 ^ 48 ∧ (f.toNat : Int) ≤ r.timeUnder off then
      some (.checked { r with ct := BitVec.ofInt 48 (r.timeUnder off) })
    else none

/-- A place holds no checked record that a rise of F from `a` to `b` makes late. -/
def Place.staysAt (a b : Time) : Place → Bool
  | .inflight _ _ => true
  | .checked r => r.staysAt a b

/-- An item has joined the group that forms, at its end (R58). -/
def Staged (it : Item) (s t : State) : Prop :=
  t.stager.cur = s.stager.cur ++ [it] ∧ t.stager.late = s.stager.late ∧ t.commit.fly = s.commit.fly

/-- No item has joined the group that forms, which goes on forming. -/
def Unstaged (s t : State) : Prop := t.stager = s.stager ∧ t.commit.fly = s.commit.fly

/-- Formation of `f` ends for want of a stager place, and GROUP_SPLIT is posted (R60); what was to be pulled stays. -/
def SplitsGroup (f : Flight) (s t : State) : Prop :=
  t.commit.fly = some { f with phase := .announced, split := true } ∧ t.stager = s.stager ∧ t.merge.dwell = s.merge.dwell ∧
    KeepsChans s t ∧ t.jrn = s.jrn ∧
    PostsFirst { time := s.lane.r, group := s.lane.group, point := none, chan := none, arch := none,
                 body := .groupSplit f.tg (BitVec.ofNat 16 s.stager.cur.length) } s t

/-- What the chatter filter does with record `r` of channel `i`, `c`, against standing value `v`, where `r` repeats no held change
(R65 to R67): equal to the standing value, held, taken unfiltered, a revert, or a supersede. -/
def Filtered (f : Flight) (i : Nat) (c : Chan) (r : Rec) (cls : BitVec 2) (v : Word32) (s t : State) : Prop :=
  (findDwell s.merge.dwell r.point = none → r.value = v → s.stagerRoom = true →
    Staged (r.item i false false) s t ∧ BecomesChan i (c.without r.pos) s t ∧ t.merge.dwell = s.merge.dwell ∧ t.jrn = s.jrn) ∧
  (findDwell s.merge.dwell r.point = none → r.value ≠ v → s.merge.dwell.length < 64 →
    Unstaged s t ∧ BecomesChan i (c.journaled r.pos s.jrn.nextTok) s t ∧
    t.merge.dwell = s.merge.dwell ++
      [{ point := r.point,
         item := { value := r.value, quality := r.quality, time := r.ct, chan := BitVec.ofNat 6 i, pos := r.pos },
         release := BitVec.ofNat 48 (min (r.ct.toNat + dwellTime cls) (2 ^ 48 - 1)) }] ∧
    Journals (.journalLoose c.phys s.jrn.nextTok) (.held (BitVec.ofNat 6 i) r.pos r.point r.value r.quality r.ct) s t) ∧
  (findDwell s.merge.dwell r.point = none → r.value ≠ v → 64 ≤ s.merge.dwell.length → s.stagerRoom = true →
    Staged (r.item i false true) s t ∧ BecomesChan i (c.without r.pos) s t ∧ t.merge.dwell = s.merge.dwell ∧ t.jrn = s.jrn ∧
    PostsFirst { time := s.lane.r, group := s.lane.group, point := some r.point, chan := some (c.phys, BitVec.ofNat 6 i),
                 arch := some r.arch, body := .dwellFull } s t) ∧
  (∀ e, findDwell s.merge.dwell r.point = some e → r.value = v → s.stagerRoom = true →
    Staged { body := .chatter r.point e.item e.release, time := r.ct, chan := BitVec.ofNat 6 i, pos := r.pos, keyTime := r.ct,
             late := false } s t ∧
    BecomesChan i (c.without r.pos) s t ∧ t.merge.dwell = s.merge.dwell.filter (fun d => d.point != r.point) ∧
    t.jrn = s.jrn) ∧
  (∀ e, findDwell s.merge.dwell r.point = some e → r.value ≠ v →
    Unstaged s t ∧ BecomesChan i (c.journaled r.pos s.jrn.nextTok) s t ∧
    t.merge.dwell = s.merge.dwell.map (fun d => if d.point = r.point then
      { d with item := { value := r.value, quality := r.quality, time := r.ct, chan := BitVec.ofNat 6 i, pos := r.pos } }
      else d) ∧
    Journals (.journalLoose c.phys s.jrn.nextTok) (.superseded (BitVec.ofNat 6 i) r.pos r.point e.item) s t) ∧
  (s.stagerRoom = false → (r.value = v ∨ (findDwell s.merge.dwell r.point = none ∧ 64 ≤ s.merge.dwell.length)) →
    SplitsGroup f s t)

/-- The clock values, the settings and the fault code of the lane. -/
def Timeline.keepsClock (a b : Timeline) : Prop :=
  b.r = a.r ∧ b.f = a.f ∧ b.group = a.group ∧ b.fault = a.fault ∧ b.faultAddr = a.faultAddr

/-- An admission leaves the lane as it stands but for C, and for the accumulator, which is 0 where C stands at or above its limit in PACED
running: lane state, hold reasons, stop time, stop and step counts and pending settings are unchanged (R103, R104). -/
def AdmitsLane (s t : State) : Prop :=
  t.lane = { s.lane with c := t.lane.c, acc := t.lane.acc } ∧
    t.lane.acc = if t.paced = true ∧ t.paceLimit ≤ (t.lane.c.toNat : Int) then 0 else s.lane.acc

/-- The pins, the point words' directory and overrides, the command in hand, and the clock values. -/
def KeepsRest (s t : State) : Prop := KeepsPins s t ∧ KeepsImage s t ∧ t.cmd = s.cmd ∧ s.lane.keepsClock t.lane

/-- The cursor of a channel goes to an older position an undone entry names, not below retain, and the fetch position follows (R137). -/
def Chan.backTo (x : Pos) (c : Chan) : Chan :=
  if (x - c.start).toNat < (c.cursor - c.start).toNat then
    if (x - c.start).toNat < (c.retain - c.start).toNat then { c with cursor := c.retain, fetch := c.retain }
    else { c with cursor := x, fetch := x }
  else c

/-- The marks a walk takes off the top of the stack, from `old` down to `new`, at a head and an oldest position (R138): a REWIND those of
its `left` marks that the head has reached, a STEP_BACK those that the head has moved below. -/
def MarksTaken (back : Bool) (left : Nat) (head oldest : Pos) (old new : List Mark) : Prop :=
  ∃ gone, old = new ++ gone ∧
    (back = true → (∀ m ∈ gone, (head - oldest).toNat < (m.pos - oldest).toNat) ∧
      ∀ m, new.getLast? = some m → (m.pos - oldest).toNat ≤ (head - oldest).toNat) ∧
    (back = false → gone.length ≤ left ∧ (∀ m ∈ gone, (head - oldest).toNat ≤ (m.pos - oldest).toNat) ∧
      ∀ m, new.getLast? = some m → gone.length = left ∨ (m.pos - oldest).toNat < (head - oldest).toNat)

/-- An entry of walk `w` has been undone: the head is at its position, the channel it names is taken back, the marks the head has reached
have left, and the step is done at the end position or reads the next older entry (R132, R137, R138). -/
def EntryUndone (w : Walk) (e : JEntry) (s t : State) : Prop :=
  t.jrn.head = s.jrn.head - 1 ∧ t.jrn.oldest = s.jrn.oldest ∧
    t.jrn.wholeSpan = (s.jrn.wholeSpan || (s.jrn.head - 1 == s.jrn.oldest)) ∧
    (∀ ch x, e.named = some (ch, x) → t.chanAt ch.toNat = (s.chanAt ch.toNat).map (Chan.backTo x) ∧
      ∀ j, j ≠ ch.toNat → t.chanAt j = s.chanAt j) ∧
    (e.named = none → t.front.chans = s.front.chans) ∧
    t.jrn.marks <+: s.jrn.marks ∧ MarksTaken w.back w.toRemove (s.jrn.head - 1) s.jrn.oldest s.jrn.marks t.jrn.marks ∧
    (∃ v, t.jrn.walk = some v ∧ v.undone = w.undone + 1 ∧ v.groupStep = (w.groupStep || e.isGroupEnd) ∧
      v.endPos = w.endPos ∧ v.removed = w.removed + (s.jrn.marks.length - t.jrn.marks.length) ∧
      (∀ m, t.jrn.marks.getLast? = some m → t.jrn.takesMark v m = false) ∧
      (s.jrn.head - 1 = w.endPos → v.phase = .stepDone) ∧
      (s.jrn.head - 1 ≠ w.endPos → v.phase = .undoing ∧
        ∀ g, s.regions = some g → t.owesRead .entryRead (g.entryAddr (s.jrn.head - 2)) 32)) ∧
    KeepsPins s t ∧ t.regions = s.regions ∧ t.ovr = s.ovr ∧ t.img = s.img ∧ t.stager = s.stager ∧ t.commit = s.commit ∧
    t.cmd = s.cmd ∧ KeepsNotices s t

/-- What the end of walk `w` with outcome `o` leaves: each channel begins again from its cursor and the fetch position given, the pending
skew offsets have transferred, and REWIND_ENDED is posted with the groups undone and the marks removed (R49, R117, R139, R140). -/
def RewindOver (w : Walk) (o : RewindOutcome) (groups removed : Nat) (fetch : Chan → Pos) (s t : State) : Prop :=
  (∀ (i : Nat) (c : Chan), s.chanAt i = some c → ∃ d, t.chanAt i = some d ∧ d.lagging = false ∧ d.expSeq = none ∧
    d.lastTs = none ∧ d.lastCt = none ∧ d.floor = s.lane.f ∧ d.cursor = c.cursor ∧ d.fetch = fetch c ∧ d.fill = c.fill ∧
    d.retain = c.retain ∧ d.st = d.calc) ∧
  (∀ (n : Nat) old, n < 16 → s.front.offsets[n]? = some old →
    t.front.offsets[n]? = some (((s.lane.pend.skew[n]?).join).getD old)) ∧
  PostsLane (.rewindEnded o w.back (BitVec.ofNat 24 groups) (BitVec.ofNat 8 removed) t.lane.f t.lane.c) s t

/-- C at the end of walk `w` where it completes at R: the target's C after a REWIND, R after a STEP_BACK (R139); R too where the target's C
lies below it, as it can where the target's position was overwritten while the start waited (R90, log 13). -/
def Walk.endsAt (w : Walk) (r c : Time) : Prop :=
  (w.targetC = none → c = r) ∧ ∀ x, w.targetC = some x → (r.toNat ≤ x.toNat → c = x) ∧ (x.toNat < r.toNat → c = r)

/-- The stager, the Commit Unit's flight and the stored image's directory and overrides: what a lane or settings command leaves. -/
def KeepsGroups (s t : State) : Prop := t.stager = s.stager ∧ t.commit = s.commit ∧ KeepsImage s t ∧ KeepsPins s t

end Sys2Proof.Machine
end

