-- ==== Sys2Proof/Certificates/Slice0/Obligations.lean ====
section
/-! DEFINITION. The statements about this model, for the provers. -/

section

open Sys2Proof Sys2Proof.Machine

/-! ## Steps and outcomes -/

/-- A step with a command at the front of the queue is that command on the rest of the queue. -/
def Obligations.StepRunsFrontCommand : Prop :=
  ∀ (c : Instr) (rest : List Instr) (s : State), step (s.setPending (c :: rest)) = exec c (s.setPending rest)

/-- A step on an empty queue is one µs of wall time (the model's choice, log 4), at which nothing is gained while an UNCONFIGURE drains (the
model's choice, log 21): the pace accumulator gains the pace in PACED running below the limit; at each ms, a divider that runs freely (the model's choice, log 5), the starvation count gains while the lane is blocked
and stands below its limit; the blocking set is evaluated at each µs (the model's choice, log 33): with no anchor blocking,
ANCHOR_STARVED leaves the set, and as the last reason the lane returns to its resume mode, where a stop time may hold it at once. -/
def Obligations.EmptyQueueIsWallTime : Prop :=
  ∀ s : State, s.pending = [] → ∃ t, step s = .next t ∧ t.wallUs = (s.wallUs + 1) % 1000 ∧ s.lane.keepsClock t.lane ∧
    (s.lane.holds.anchorStarved = false →
      t.lane.lane = s.lane.lane ∧ t.lane.c = s.lane.c ∧
      t.lane.acc = (if s.live && s.paced then
        (if s.paceLimit ≤ (s.lane.c.toNat : Int) then 0 else s.lane.acc + s.lane.pace) else s.lane.acc) ∧
      t.merge.starve = (if s.live && (s.wallUs + 1) % 1000 == 0 && s.blocked && s.merge.limit != 0 &&
        s.merge.starve < s.merge.limit then s.merge.starve + 1 else s.merge.starve) ∧
      KeepsNotices s t) ∧
    (s.live = true → s.lane.lane = .holding → s.lane.holds.anchorStarved = true →
      (s.anchorBlocks = true → t.lane = s.lane ∧ KeepsNotices s t) ∧
      (∀ h, s.anchorBlocks = false → h = { s.lane.holds with anchorStarved := false } →
        (h.isEmpty = false → t.lane = { s.lane with holds := h } ∧ KeepsNotices s t) ∧
        (h = Holds.none → s.historyEnded = false → s.lane.stopTime = none →
          t.lane = { s.lane with lane := s.lane.resume.lane, holds := Holds.none } ∧ KeepsNotices s t) ∧
        (∀ x tg, h = Holds.none → s.historyEnded = false → s.lane.stopTime = some x → s.nextTg = some tg →
          x.toNat < tg → s.lane.resume = .stepping → s.commit.fly = none → s.stager.late = [] →
          t.lane.lane = .holding ∧ t.lane.holds = { Holds.none with stopTime := true } ∧ t.lane.stopTime = none ∧
            t.lane.c.toNat = max s.lane.c.toNat x.toNat))) ∧
    t.front = s.front ∧ t.stager = s.stager ∧ t.commit = s.commit ∧ t.jrn = s.jrn ∧ t.cmd = s.cmd ∧ KeepsImage s t ∧
    KeepsPath s t

/-- No command is refused. A command the link protocol allows answers a next state, a memory-side response where its data has the length
its read asked for (log 32); one the link protocol excludes faults (the model's choice, log 2). -/
def Obligations.OutcomesOfCommands : Prop :=
  ∀ (i : Instr) (s : State),
    (∀ why, exec i s ≠ .refused why) ∧
    (i.wf = false → exec i s = .fault .linkViolation) ∧
    (i.wf = true → (∀ tag st d, i ≠ .memoryResponse tag st d) → ∃ t, exec i s = .next t) ∧
    (∀ tag st d, i = .memoryResponse tag st d → i.wf = true →
      (∀ o, s.path.outst.find? (Outst.hasTag tag) = some o → o.what.dataOk st d = true) → ∃ t, exec i s = .next t)

/-! ## RESET -/

/-- RESET_LINE drops everything on chip and leaves the command ring as the only region; while the line is asserted no request is taken;
RESET_RELEASE makes the port take requests again, and changes nothing else. The machine right after reset has the values the spec
gives, and keeps the capacities and the law of HOLDING, with no rewrite of the status block owed. (Where the spec gives no value, as to the
starvation limit, which is 0, the value is the model's choice, log 35.) -/
def Obligations.ResetLeaves : Prop :=
  (∀ s : State,
     (∃ t, exec .resetLine s = .next t ∧ t.resetAsserted = true ∧ t.path = Path.reset ∧ t.regions = none ∧ t.dir = [] ∧
       t.ovr = [] ∧ t.front = Front.reset ∧ t.merge = Merge.reset ∧ t.stager = Stager.reset ∧ t.commit = Commit.reset ∧
       t.lane = Timeline.reset ∧ t.jrn = Journal.reset ∧ t.cmd = CmdProc.reset ∧ t.ntc = NoticeUnit.reset ∧ t.img = none ∧
       t.noticeLine = false ∧ t.pending = s.pending ∧ t.cbStraps = s.cbStraps ∧
       (∀ a : Nat, t.region a = if within a (t.cbBase + Config.ringOff) Config.ringSize then .snooped else .none) ∧
       (∀ r : Req, exec (.passRequest r) t = .next t ∨ r.wf = false) ∧
       (∀ tag : BitVec 5, exec (.memorySideTake tag) t = .next t)) ∧
     (∃ t, exec .resetRelease s = .next t ∧ t = { s with resetAsserted := false } ∧
       (s.path.held.length < 16 → s.path.answers.length < 64 → t.canTake = true))) ∧
  (State.reset.path = Path.reset ∧ State.reset.path.pass = 0 ∧ State.reset.regions = none ∧ State.reset.dir = [] ∧
   State.reset.ovr = [] ∧ State.reset.front.chans = [] ∧ State.reset.front.offsets = List.replicate 16 0 ∧
   State.reset.merge.dwell = [] ∧ State.reset.merge.starve = 0 ∧ State.reset.merge.limit = 0 ∧
   State.reset.stager.cur = [] ∧ State.reset.stager.late = [] ∧ State.reset.commit.flag = false ∧
   State.reset.commit.watches = List.replicate 32 none ∧ State.reset.lane.lane = .unconfigured ∧
   State.reset.lane.runMode = .paced ∧ State.reset.lane.holds = Holds.none ∧ State.reset.lane.c = 0 ∧ State.reset.lane.r = 0 ∧
   State.reset.lane.f = 0 ∧ State.reset.lane.group = 0 ∧ State.reset.lane.pace = 1024 ∧ State.reset.lane.acc = 0 ∧
   State.reset.lane.stopTime = none ∧ State.reset.lane.stopCount = 0 ∧ State.reset.lane.reload = 0 ∧
   State.reset.lane.steps = 0 ∧ State.reset.lane.pend = Pend.empty ∧ State.reset.lane.fault = .none ∧
   State.reset.jrn.head = 0 ∧ State.reset.jrn.oldest = 0 ∧ State.reset.jrn.wrapped = false ∧
   State.reset.jrn.wholeSpan = false ∧ State.reset.jrn.geCount = 0 ∧ State.reset.jrn.marks = [] ∧
   State.reset.cmd.n = 0 ∧ State.reset.cmd.pend = [] ∧ State.reset.cmd.phase = .idle ∧ State.reset.ntc.produced = 0 ∧
   State.reset.ntc.consumed = 0 ∧ State.reset.ntc.discarded = 0 ∧ State.reset.ntc.overflow = [] ∧ State.reset.ntc.mask = 0 ∧
   State.reset.noticeLine = false ∧ State.reset.pending = [] ∧
   State.reset.capacitiesOk ∧ State.reset.lane.holdsOk ∧ State.reset.rewriteOwed = false)

/-! ## Requests of the processor side -/

/-- POINT_READ and ALIAS_READ: a window read is held while holding is in force, and else joins the forward stream, an alias read at
the point-window address of its offset. PASS_REQUEST: a request with no behaviour of its own joins the forward stream unchanged (as do
writes judged later at its head: the model's choice, log 7). A window read keeps the class of its window, and is merged or not by it;
while an abandoned CONFIGURING drains it is answered unmerged (the model's choice, log 21).
ALIAS_WRITE and PART_OWNED_WRITE: refused at take, with nothing forwarded and no notice. -/
def Obligations.RequestsTaken : Prop :=
  (∀ (s : State) (c : FClass), s.windowClass c = if s.lane.lane = .configuring ∧ s.img = none then .raw else c) ∧
  ∀ (r : Req) (s : State), r.wf = true → s.canTake = true →
    (r.isRead = true → s.region r.addr.toNat = .point →
      ∃ t, exec (.pointRead r) s = .next t ∧ JoinsAnswers s t r true none ∧
        (s.holding = true → t.path.fwd = s.path.fwd ∧
          t.path.held = s.path.held ++ [{ id := s.path.nextId, req := r, cls := s.windowClass .point }]) ∧
        (s.holding = false → t.path.held = s.path.held ∧
          t.path.fwd = s.path.fwd ++ [{ id := s.path.nextId, req := r, cls := s.windowClass .point }]) ∧
        KeepsMemorySide s t ∧ KeepsBlocks s t ∧ KeepsNotices s t) ∧
    (r.isRead = true → s.region r.addr.toNat = .aliasWin → ∀ g, s.regions = some g →
      ∃ t q, exec (.aliasRead r) s = .next t ∧ q = { r with addr := BitVec.ofNat 40 (r.addr.toNat - g.awBase + g.pwBase) } ∧
        JoinsAnswers s t r true none ∧
        (s.holding = true → t.path.fwd = s.path.fwd ∧
          t.path.held = s.path.held ++ [{ id := s.path.nextId, req := q, cls := s.windowClass .aliasWin }]) ∧
        (s.holding = false → t.path.held = s.path.held ∧
          t.path.fwd = s.path.fwd ++ [{ id := s.path.nextId, req := q, cls := s.windowClass .aliasWin }]) ∧
        KeepsMemorySide s t ∧ KeepsBlocks s t ∧ KeepsNotices s t) ∧
    (r.isRead = false → s.region r.addr.toNat = .aliasWin →
      ∃ t, exec (.aliasWrite r) s = .next t ∧ JoinsAnswers s t r false (some (refusal r.tag)) ∧ t.path.fwd = s.path.fwd ∧
        t.path.held = s.path.held ∧ KeepsMemorySide s t ∧ KeepsBlocks s t ∧ KeepsNotices s t) ∧
    (r.isRead = false → s.region r.addr.toNat = .partOwned →
      ∃ t, exec (.partOwnedWrite r) s = .next t ∧ JoinsAnswers s t r false (some (refusal r.tag)) ∧
        t.path.fwd = s.path.fwd ∧ t.path.held = s.path.held ∧ KeepsMemorySide s t ∧ KeepsBlocks s t ∧ KeepsNotices s t) ∧
    (s.region r.addr.toNat ≠ .point → s.region r.addr.toNat ≠ .aliasWin →
      (r.isRead = false → s.region r.addr.toNat ≠ .partOwned) →
      ∃ t, exec (.passRequest r) s = .next t ∧ JoinsAnswers s t r false none ∧ t.path.held = s.path.held ∧
        t.path.fwd = s.path.fwd ++ [{ id := s.path.nextId, req := r,
                                      cls := if r.isRead then .pass
                                             else if s.region r.addr.toNat = .ring then .guarded
                                             else if s.region r.addr.toNat = .snooped then .snooped else .pass }] ∧
        KeepsMemorySide s t ∧ KeepsBlocks s t ∧ KeepsNotices s t)

/-- WINDOW_WRITE, taken: every word is a claim or passed over and the new entries fit; each claim's entry takes the claimed value and
quality and a new origin, keeps its policy or takes the point's, and no other entry changes. Refused: in CONFIGURING, or where a word
is a tail word or is enabled in part, without a notice; for want of room, with OVERRIDE_FULL; the table then stands. -/
def Obligations.WindowWriteJudged : Prop :=
  (∀ (r : Req) (s : State) (g : Regions), r.wf = true → r.isRead = false → s.canTake = true →
     s.region r.addr.toNat = .point → s.regions = some g → s.lane.lane ≠ .configuring →
     (Req.words r g).any (WriteWord.refuses g.points) = false → (s.newClaims (Req.words r g)).length ≤ s.ovrFree →
     ∃ t, exec (.windowWrite r) s = .next t ∧
       JoinsAnswers s t r false (some { tag := r.tag, status := .ok, data := [] }) ∧
       (∀ w ∈ Req.words r g, w.claim = true → ∃ e, findOvr t.ovr (BitVec.ofNat 16 w.point) = some e ∧
         e.value = (PointWord.ofBytes w.bytes).value ∧ e.quality = (PointWord.ofBytes w.bytes).quality &&& 0x3F ∧
         e.originR = s.lane.r ∧ e.originGroup = s.lane.group ∧
         e.policy = ((findOvr s.ovr (BitVec.ofNat 16 w.point)).map (·.policy)).getD
           (((s.dirAt (BitVec.ofNat 16 w.point)).map (·.policy)).getD .pin)) ∧
       (∀ p : PointNo, (∀ w ∈ Req.words r g, w.claim = true → p ≠ BitVec.ofNat 16 w.point) →
         findOvr t.ovr p = findOvr s.ovr p) ∧
       t.ovr.length = s.ovr.length + (s.newClaims (Req.words r g)).length ∧
       t.path.fwd = s.path.fwd ∧ t.path.held = s.path.held ∧ KeepsMemorySide s t ∧ KeepsPins s t ∧ KeepsHistory s t ∧
       t.regions = s.regions ∧ t.dir = s.dir ∧ t.img = s.img ∧ t.lane = s.lane ∧ t.cmd = s.cmd ∧ KeepsNotices s t) ∧
  (∀ (r : Req) (s : State) (g : Regions), r.wf = true → r.isRead = false → s.canTake = true →
     s.region r.addr.toNat = .point → s.regions = some g →
     ((s.lane.lane = .configuring ∨ (Req.words r g).any (WriteWord.refuses g.points) = true) →
       ∃ t, exec (.windowWrite r) s = .next t ∧ JoinsAnswers s t r false (some (refusal r.tag)) ∧ t.path.fwd = s.path.fwd ∧
         t.path.held = s.path.held ∧ KeepsMemorySide s t ∧ KeepsBlocks s t ∧ KeepsNotices s t) ∧
     (s.lane.lane ≠ .configuring → (Req.words r g).any (WriteWord.refuses g.points) = false →
       s.ovrFree < (s.newClaims (Req.words r g)).length →
       ∃ t n w rest, exec (.windowWrite r) s = .next t ∧ JoinsAnswers s t r false (some (refusal r.tag)) ∧
         s.newClaims (Req.words r g) = w :: rest ∧
         n = { time := s.lane.r, group := s.lane.group, point := some (BitVec.ofNat 16 w.point), chan := none, arch := none,
               body := .overrideFull (BitVec.ofNat 16 (rest.length + 1)) (BitVec.ofNat 16 s.ovrFree) } ∧
         Posted n s t ∧ t.path.fwd = s.path.fwd ∧ t.path.held = s.path.held ∧ t.path.outst = s.path.outst ∧
         KeepsBlocks s t))

/-- The word a point-window read shows for a point: an override first, else the selector; change count, source and group phase as
stored; a tail word as stored. -/
def Obligations.PresentedWord : Prop :=
  (∀ (s : State) (p : PointNo) (w : PointWord),
    (s.present p w).count = w.count ∧ (s.present p w).source = w.source ∧ (s.present p w).phase = w.phase ∧
    (∀ o, findOvr s.ovr p = some o → (s.present p w).value = o.value ∧
      (s.present p w).quality = (o.quality &&& 0x3F) ||| 0x40) ∧
    (findOvr s.ovr p = none → ∀ e, s.dirAt p = some e →
      (e.sel = .live → s.present p w = w) ∧
      (∀ v q, e.sel = .hold v q → (s.present p w).value = v ∧ (s.present p w).quality = q ||| 0x80) ∧
      (∀ v, e.sel = .lastGood → e.lastGood = some v → (s.present p w).value = v ∧
        (s.present p w).quality = (w.quality &&& 0xFC) ||| 0x80) ∧
      (e.sel = .lastGood → e.lastGood = none → (s.present p w).value = w.value ∧
        (s.present p w).quality = w.quality ||| 0x01) ∧
      (e.sel = .blank → (s.present p w).value = 0 ∧ (s.present p w).quality = 0x01))) ∧
  (∀ (s : State) (g : Regions) (p : Nat) (a b c d e f h i : Byte) (rest : List Byte),
    s.mergeWords g p (a :: b :: c :: d :: e :: f :: h :: i :: rest) =
      (if p < g.points then (s.present (BitVec.ofNat 16 p) (PointWord.ofBytes [a, b, c, d, e, f, h, i])).toBytes
       else [a, b, c, d, e, f, h, i]) ++ s.mergeWords g (p + 1) rest)

/-! ## The memory side -/

/-- MEMORY_SIDE_TAKE: the offered request leaves its queue for the outstanding list of its tag (an own request's is an operand: log 8), and the pass count is 0 after an own
request, and rises, to 3 at most, after a forwarded request that an own request contended with. OWN_QUEUE_ENQUEUE: the block that has
waited longest takes the free place. No rewrite of the status block is owed, so nothing else joins own traffic. Every event ends with the
arbiter's look: an offer that stands is kept; else the head of the forward stream is offered, where it is eligible and no owner finds it
invalid (log 36), but an own request instead once three forwarded ones have passed one over; else an own request; and the pass count is 0
where the own queue is empty. A request that reaches the head notes the own writes to its line that have not issued, those that wait for
a place in the queue included (the model's deduction, log 11), and is eligible once none of them is left. -/
def Obligations.MemorySideTakesOffer : Prop :=
  ∀ (tag : BitVec 5) (s : State), s.rewriteOwed = false →
    (∀ o rest, s.resetAsserted = false → s.path.offer = some .own → s.path.ownQ = o :: rest →
      ∃ t, exec (.memorySideTake tag) s = .next t ∧ t.path.ownQ = rest ∧ t.path.pass = 0 ∧
        t.path.outst = s.path.outst ++ [{ tag := tag, what := .own o }] ∧ t.path.fwd = s.path.fwd ∧
        t.path.headNote = s.path.headNote ∧ t.path.offer = ({ t.path with offer := none }).choose t.headOffers ∧
        t.path.waiting = s.path.waiting ∧ t.path.answers = s.path.answers ∧ t.path.held = s.path.held ∧
        t.path.returns = s.path.returns ∧ KeepsBlocks s t ∧ t.ntc = s.ntc) ∧
    (∀ f rest, s.resetAsserted = false → s.path.offer = some .fwd → s.path.fwd = f :: rest → s.judged f = false →
      ∃ t, exec (.memorySideTake tag) s = .next t ∧ t.path.fwd = rest ∧
        t.path.pass = (if s.path.ownQ.isEmpty then 0 else min 3 (s.path.pass + 1)) ∧
        t.path.outst = s.path.outst ++ [{ tag := f.req.tag, what := .fwd f }] ∧ t.path.ownQ = s.path.ownQ ∧
        (∀ g more, rest = g :: more → ∀ n, n ∈ t.path.headNote ↔ s.path.notes g n) ∧
        t.path.offer = ({ t.path with offer := none }).choose t.headOffers ∧
        t.path.waiting = s.path.waiting ∧ t.path.answers = s.path.answers ∧ t.path.held = s.path.held ∧
        t.path.returns = s.path.returns ∧ KeepsBlocks s t ∧ t.ntc = s.ntc) ∧
    (∀ o rest, s.path.waiting = o :: rest → s.path.ownQ.length < 32 →
      ∃ t, exec .ownQueueEnqueue s = .next t ∧ t.path.ownQ = s.path.ownQ ++ [o] ∧ t.path.waiting = rest ∧
        t.path.outst = s.path.outst ∧ t.path.fwd = s.path.fwd ∧ t.path.headNote = s.path.headNote ∧
        t.path.offer = ({ t.path with offer := s.path.offer }).choose t.headOffers ∧ t.path.answers = s.path.answers ∧
        t.path.held = s.path.held ∧ t.path.returns = s.path.returns ∧ KeepsBlocks s t ∧ t.ntc = s.ntc) ∧
    ((closeEvent s).path.offer = s.path.choose s.headOffers ∧
      (closeEvent s).path.pass = (if s.path.ownQ = [] then 0 else s.path.pass)) ∧
    (∀ (p : Path) (ok : Bool),
      (∀ o, p.offer = some o → p.choose ok = some o) ∧
      (p.offer = none → p.headEligible = true → ok = true →
        (p.ownQ ≠ [] → p.pass = 3 → p.choose ok = some .own) ∧ ((p.ownQ = [] ∨ p.pass ≠ 3) → p.choose ok = some .fwd)) ∧
      (p.offer = none → (p.headEligible = false ∨ ok = false) →
        (p.ownQ ≠ [] → p.choose ok = some .own) ∧ (p.ownQ = [] → p.choose ok = none))) ∧
    ((s.headOffers = true ↔ ∀ f rest, s.path.fwd = f :: rest → s.headValid f = true) ∧
      (∀ p : Path, p.headEligible = true ↔ p.fwd ≠ [] ∧ ∀ n ∈ p.headNote, ∀ r ∈ p.own, r.serial ≠ n) ∧
      (∀ (p : Path) (f : Fwd), p.fwd = [] → (p.pushFwd f).fwd = [f] ∧ ∀ n, n ∈ (p.pushFwd f).headNote ↔ p.notes f n) ∧
      (∀ (p : Path) (f g : Fwd) (rest : List Fwd), p.fwd = g :: rest → (p.pushFwd f).fwd = p.fwd ++ [f] ∧
        (p.pushFwd f).headNote = p.headNote))

/-- MEMORY_RESPONSE: matched to the first request on its tag's list. A forwarded request's response becomes ready, a point-window
read merged, an error without data; an own request's response goes to its block; one that matches nothing is discarded. A line of
CONFIGURE's record, and a channel table entry, join what its validation has read; with both lines read, the entry of each enabled
channel is read. (That validation makes these reads, two of lines and one of 32 bytes for an entry, is the model's choice, log 20.) -/
def Obligations.MemoryResponseMatched : Prop :=
  ∀ (tag : BitVec 5) (st : MemStatus) (data : List Byte) (s : State), data.length % 8 = 0 → data.length ≤ 64 →
    s.resetAsserted = false →
    (s.path.outst.find? (Outst.hasTag tag) = none → exec (.memoryResponse tag st data) s = .next s) ∧
    (∀ f, s.path.outst.find? (Outst.hasTag tag) = some { tag := tag, what := .fwd f } →
      (st = .ok → f.req.isRead = true → data.length = f.req.len) →
      ∃ t d, exec (.memoryResponse tag st data) s = .next t ∧
        (st = .memerr → d = []) ∧ (f.req.isRead = false → d = []) ∧
        (st = .ok → f.req.isRead = true → f.cls ≠ .point → d = data) ∧
        (∀ g, st = .ok → f.req.isRead = true → f.cls = .point → s.regions = some g →
          d = s.mergeWords g (g.pointAt f.req.addr.toNat) data) ∧
        t.path.answers = s.path.answers.map (fun a => if a.id == f.id then
          { a with resp := some { tag := f.req.tag, status := statusOf st, data := d } } else a) ∧
        t.path.outst = s.path.outst.eraseP (Outst.hasTag tag) ∧ t.path.fwd = s.path.fwd ∧ t.path.held = s.path.held ∧
        t.path.returns = s.path.returns ∧ KeepsBlocks s t ∧ KeepsNotices s t) ∧
    (∀ o, s.path.outst.find? (Outst.hasTag tag) = some { tag := tag, what := .own o } →
      (st = .ok → o.kind = .read → data.length = o.len) →
      ∃ t, exec (.memoryResponse tag st data) s = .next t ∧ t.path.outst = s.path.outst.eraseP (Outst.hasTag tag) ∧
        t.path.returns = (if o.origin.keeps st then s.path.returns ++ [{ req := o, status := st, data := data }]
          else s.path.returns) ∧
        (o.origin = .descRead → s.cmd.phase = .reading →
          t.cmd.phase = .fetched (if st = .ok then some data else none)) ∧
        (∀ l rs es n all, o.origin = .recordRead l → s.cmd.phase = .validating rs es n →
          all = rs ++ [(l, if st = .ok then some data else none)] →
          (all.length ≠ 2 → t.cmd.phase = .validating all es n) ∧
          (∀ cs, all.length = 2 → cs = (lineRead all 0).elim [] (fun bs => enabledChans (CfgRec.parse bs).enable) →
            t.cmd.phase = .validating all es cs.length ∧ ∀ c ∈ cs, t.owesRead (.tableRead c) (s.entryAddr c) 32)) ∧
        (∀ c rs es n, o.origin = .tableRead c → s.cmd.phase = .validating rs es n →
          t.cmd.phase = .validating rs (es ++ [(c, if st = .ok then some data else none)]) n) ∧
        t.path.answers = s.path.answers ∧ t.path.fwd = s.path.fwd ∧ t.path.held = s.path.held ∧ KeepsPins s t ∧
        KeepsImage s t ∧ KeepsHistory s t ∧ t.lane = s.lane ∧ t.cmd.n = s.cmd.n ∧ t.cmd.pend = s.cmd.pend ∧
        KeepsNotices s t)

/-- PROCESSOR_RESPONSE: the ready response of the first request on a tag's list is sent, and the request leaves the list. -/
def Obligations.ProcessorResponseSent : Prop :=
  ∀ (tag : BitVec 5) (s : State) (a : Answer) (r : Resp), s.resetAsserted = false →
    s.path.answers.find? (fun x => x.tag == tag) = some a → a.resp = some r →
    ∃ t, exec (.processorResponse tag) s = .next t ∧ t.path.procOut = some r ∧
      t.path.answers = s.path.answers.eraseP (fun x => x.tag == tag) ∧ t.path.fwd = s.path.fwd ∧
      t.path.held = s.path.held ∧ KeepsMemorySide s t ∧ KeepsBlocks s t ∧ KeepsNotices s t

/-! ## Writes judged at the head of the forward stream -/

/-- RING_SLOT_WRITE: a write that covers a guarded slot is refused with RING_GUARD, and any other is issued when it is offered. It is
refused by the channel whose ring holds its address, where it enables a byte of a guarded slot of its line; the guarded slots are
those of the positions from retain up to the fill. -/
def Obligations.RingWriteJudged : Prop :=
  (∀ (c : Chan) (slot : Nat), c.k ≤ 32 → slot < 2 ^ c.k →
    (c.guardsSlot slot = true ↔
      ∃ n, n < (c.fill - c.retain).toNat ∧ (c.retain + BitVec.ofNat 32 n).toNat % 2 ^ c.k = slot)) ∧
  (∀ (s : State) (r : Req) (i : Nat) (c : Chan), s.guardRefuses r = some (i, c) ↔
    (s.chanAt i = some c ∧ c.base ≤ r.addr.toNat ∧ r.addr.toNat < c.base + 32 * 2 ^ c.k ∧
      ∀ j d, j < i → s.chanAt j = some d → ¬(d.base ≤ r.addr.toNat ∧ r.addr.toNat < d.base + 32 * 2 ^ d.k)) ∧
    ∃ slot n, (slot = (r.addr.toNat / 64 * 64 - c.base) / 32 ∨ slot = (r.addr.toNat / 64 * 64 - c.base) / 32 + 1) ∧
      c.guardsSlot slot = true ∧ n < 32 ∧ maskAt r (c.base + 32 * slot + n) = true) ∧
  (∀ (s : State) (f : Fwd) (rest : List Fwd), s.judges f rest → f.cls = .guarded →
    (∀ i c, s.guardRefuses f.req = some (i, c) → ∃ t, exec .ringSlotWrite s = .next t ∧ RefusesHead s t f rest ∧
      KeepsBlocks s t ∧
      Posted { time := s.lane.r, group := s.lane.group, point := none, chan := some (c.phys, BitVec.ofNat 6 i), arch := none,
               body := .ringGuard f.req.addr c.retain c.fill } s t) ∧
    (s.guardRefuses f.req = none → s.path.offer = some .fwd → ∃ t, exec .ringSlotWrite s = .next t ∧
      IssuesHead s t f rest ∧ KeepsPins s t ∧ KeepsImage s t ∧ KeepsChans s t ∧ t.stager = s.stager ∧
      t.commit = s.commit ∧ t.jrn = s.jrn ∧ t.cmd = s.cmd))

/-- FILL_COUNT_WRITE and CLOSED_FLAG_WRITE: when each is valid; a valid write is issued and its fill and closed flag taken; an invalid
field refuses the whole write, with FILL_INVALID for each invalid field, channel by channel and the fill first, and changes no channel.
(The value a FILL_INVALID carries, and that it is 0 for the closed flag, is the model's choice, log 28.) A channel that this leaves closed
with nothing remaining is DRAINED and posts CHANNEL_DRAINED with its last accepted corrected time, one that was LAGGING too; so does any
channel at the end of every event that has left it so, but in REWINDING (the time of a channel that has accepted none, and one its field
cannot show, are free values, logs 17, 18). -/
def Obligations.ChannelFieldsJudged : Prop :=
  (∀ (s : State) (c : Chan) (r : Req), s.fillValid c r = true ↔
    coversAll r (s.entryAddr c.phys + 0x10) 4 = true ∧
    (c.fill - c.start).toNat ≤ (s.newFill c r - c.start).toNat ∧ (s.newFill c r - c.retain).toNat ≤ 2 ^ c.k ∧
    (c.closed = true → s.newFill c r = c.fill)) ∧
  (∀ (s : State) (c : Chan) (r : Req), s.closedValid c r = false ↔ c.closed = true ∧ s.newClosed c r = false) ∧
  (∀ (s : State) (f : Fwd) (rest : List Fwd), s.judges f rest → f.cls = .snooped → s.slotOf f.req = none →
    s.coversConsumed f.req = false →
    ((∀ c ∈ s.front.chans, (s.fillCovered c f.req = true → s.fillValid c f.req = true) ∧
        (s.closedCovered c f.req = true → s.closedValid c f.req = true)) → s.path.offer = some .fwd →
      (s.coversFill f.req = true ∨ s.coversClosed f.req = true) →
      ∃ t, (s.coversFill f.req = true → exec .fillCountWrite s = .next t) ∧
        (s.coversClosed f.req = true → exec .closedFlagWrite s = .next t) ∧ IssuesHead s t f rest ∧
        (∀ i c, s.chanAt i = some c → ∃ c', t.chanAt i = some c' ∧
          c'.lessState = { c with fill := if s.fillCovered c f.req then s.newFill c f.req else c.fill,
                                  closed := c.closed || (s.closedCovered c f.req && s.newClosed c f.req),
                                  st := .empty, lagging := false }) ∧
        (∀ i c d, s.chanAt i = some c → (s.fillCovered c f.req = true ∨ s.closedCovered c f.req = true) →
          d = { c with fill := if s.fillCovered c f.req then s.newFill c f.req else c.fill,
                       closed := c.closed || (s.closedCovered c f.req && s.newClosed c f.req) } →
          d.calc = .drained → c.st ≠ .drained →
          (t.chanAt i).map (fun x => (x.st, x.lagging)) = some (.drained, false) ∧ PostsDrained i c s t) ∧
        KeepsPins s t ∧ KeepsImage s t ∧ t.front.offsets = s.front.offsets ∧ t.stager = s.stager ∧ t.commit = s.commit ∧
        t.jrn = s.jrn ∧ t.cmd = s.cmd) ∧
    (∀ i c, s.chanAt i = some c → (∀ j d, s.chanAt j = some d → j ≠ i → s.fillCovered d f.req = false ∧
        s.closedCovered d f.req = false) →
      (s.fillCovered c f.req = true → s.fillValid c f.req = false →
        (s.closedCovered c f.req = true → s.closedValid c f.req = true) →
        ∃ t, exec .fillCountWrite s = .next t ∧ RefusesHead s t f rest ∧ KeepsBlocks s t ∧
          Posted { time := s.lane.r, group := s.lane.group, point := none, chan := some (c.phys, BitVec.ofNat 6 i),
                   arch := none, body := .fillInvalid false (s.newFill c f.req) } s t) ∧
      (s.closedCovered c f.req = true → s.closedValid c f.req = false →
        (s.fillCovered c f.req = true → s.fillValid c f.req = true) →
        ∃ t, exec .closedFlagWrite s = .next t ∧ RefusesHead s t f rest ∧ KeepsBlocks s t ∧
          Posted { time := s.lane.r, group := s.lane.group, point := none, chan := some (c.phys, BitVec.ofNat 6 i),
                   arch := none, body := .fillInvalid true 0 } s t)) ∧
    ((∃ c ∈ s.front.chans, (s.fillCovered c f.req = true ∧ s.fillValid c f.req = false) ∨
        (s.closedCovered c f.req = true ∧ s.closedValid c f.req = false)) →
      ∃ t, (s.coversFill f.req = true → exec .fillCountWrite s = .next t) ∧
        (s.coversClosed f.req = true → exec .closedFlagWrite s = .next t) ∧ RefusesHead s t f rest ∧ KeepsBlocks s t ∧
        PostedAll (s.invalidFields f.req) s t)) ∧
  ((∀ c : Chan, c.lagging = false ∨ c.heads.any Place.isChecked = false →
      (c.calc = .drained ↔ c.closed = true ∧ c.fetch = c.fill ∧ c.heads = [])) ∧
   ∀ (s : State) (i : Nat) (c : Chan), s.lane.lane ≠ .rewinding → s.chanAt i = some c → c.calc = .drained → c.st ≠ .drained →
     ((settle s).chanAt i).map Chan.st = some .drained ∧ PostsDrained i c s (settle s))

/-- CONSUMED_COUNT_WRITE: a count between the consumed and the produced count is taken as the write issues, and the oldest waiting notice
goes to the ring; any other count refuses the write, with no notice. Where every waiting notice finds room, NOTICE_FULL leaves the set,
and as the last reason the lane returns to its resume mode, where the accumulator is 0 if C stands at its limit. -/
def Obligations.ConsumedCountJudged : Prop :=
  ∀ (s : State) (f : Fwd) (rest : List Fwd) (g : Regions), s.judges f rest → f.cls = .snooped → s.regions = some g →
    s.coversConsumed f.req = true → s.coversFill f.req = false → s.coversClosed f.req = false → s.slotOf f.req = none →
    (coversAll f.req (s.cbBase + 0x200) 4 = true →
      (s.newConsumed f.req - s.ntc.consumed).toNat ≤ (s.ntc.produced - s.ntc.consumed).toNat →
      s.path.offer = some .fwd →
      ∃ t, exec .consumedCountWrite s = .next t ∧ IssuesHead s t f rest ∧ t.ntc.consumed = s.newConsumed f.req ∧
        (∀ n more, s.ntc.overflow = n :: more → (s.ntc.produced - s.newConsumed f.req).toNat < 2 ^ g.nExp →
          t.owesWrite .noticeWrite (g.nBase + 32 * (s.ntc.produced.toNat % 2 ^ g.nExp)) n.encode) ∧
        (∀ h, s.ntc.overflow ≠ [] →
          (s.ntc.produced - s.newConsumed f.req).toNat + s.ntc.overflow.length ≤ 2 ^ g.nExp → s.lane.lane = .holding →
          s.lane.holds.noticeFull = true → s.lane.holds.anchorStarved = false →
          h = { s.lane.holds with noticeFull := false } →
          (h.isEmpty = false → t.lane = { s.lane with holds := h }) ∧
          (h = Holds.none → s.settled → s.historyEnded = false → s.lane.stopTime = none →
            t.lane = { s.lane with
              lane := s.lane.resume.lane
              holds := Holds.none
              acc := if s.lane.resume = .running ∧ s.lane.runMode = .paced ∧ s.paceLimit ≤ (s.lane.c.toNat : Int) then 0
                     else s.lane.acc })) ∧
        KeepsPins s t ∧ KeepsImage s t ∧ KeepsChans s t ∧ t.stager = s.stager ∧ t.commit = s.commit ∧ t.jrn = s.jrn ∧
        t.cmd = s.cmd) ∧
    (¬(coversAll f.req (s.cbBase + 0x200) 4 = true ∧
        (s.newConsumed f.req - s.ntc.consumed).toNat ≤ (s.ntc.produced - s.ntc.consumed).toNat) →
      ∃ t, exec .consumedCountWrite s = .next t ∧ RefusesHead s t f rest ∧ KeepsBlocks s t ∧ KeepsNotices s t)

/-- OWNER_WORD_WRITE: INTERPOSER written to the idle slot N starts its processing, and written to any other slot makes that slot pending;
any other value withdraws the slot; a write to the slot being processed is refused. (While an UNCONFIGURE takes effect slot N too is made
pending: the model's choice, log 21.) -/
def Obligations.OwnerWordJudged : Prop :=
  ∀ (s : State) (f : Fwd) (rest : List Fwd) (i : BitVec 5), s.judges f rest → f.cls = .snooped →
    s.slotOf f.req = some i → s.coversConsumed f.req = false → s.coversFill f.req = false → s.coversClosed f.req = false →
    (s.slotBusy = some i → ∃ t, exec .ownerWordWrite s = .next t ∧ RefusesHead s t f rest ∧ KeepsBlocks s t ∧
      KeepsNotices s t) ∧
    (s.slotBusy ≠ some i → covers f.req (s.slotAddr i) 4 = true → s.path.offer = some .fwd →
      ∃ t, exec .ownerWordWrite s = .next t ∧ IssuesHead s t f rest ∧ t.cmd.n = s.cmd.n ∧
        (coversAll f.req (s.slotAddr i) 4 = true ∧ leNat (bytesAt f.req (s.slotAddr i) 4) = 1 →
          (i = s.cmd.n → s.cmd.phase = .idle →
            t.cmd.phase = .reading ∧ t.owesRead .descRead (s.slotAddr i) 64 ∧
            ∀ j, j ∈ t.cmd.pend ↔ (j ∈ s.cmd.pend ∧ j ≠ i)) ∧
          (¬(i = s.cmd.n ∧ s.cmd.phase = .idle) →
            t.cmd.phase = s.cmd.phase ∧ ∀ j, j ∈ t.cmd.pend ↔ (j ∈ s.cmd.pend ∨ j = i))) ∧
        (¬(coversAll f.req (s.slotAddr i) 4 = true ∧ leNat (bytesAt f.req (s.slotAddr i) 4) = 1) →
          t.cmd.phase = s.cmd.phase ∧ ∀ j, j ∈ t.cmd.pend ↔ (j ∈ s.cmd.pend ∧ j ≠ i)) ∧
        KeepsPins s t ∧ KeepsImage s t ∧ KeepsChans s t ∧ t.stager = s.stager ∧ t.commit = s.commit ∧ t.jrn = s.jrn)

/-! ## Notices -/

/-- What the Notice Unit does with a notice handed in: masked, written into the ring, buffered, or discarded and counted. The notice
line follows the counts. The 32 bytes of a notice record hold the kind, the class, the code, the time, the group number, the point and
channels with their sentinels, the kind's values and the archive reference at their places, and 0 elsewhere. -/
def Obligations.NoticeTaken : Prop :=
  (∀ s : State, s.noticeLine = true ↔ (s.ntc.lineEn = true ∧ s.ntc.produced ≠ s.ntc.consumed)) ∧
  (∀ n : Notice, n.archOk → Laid 32 n.layout n.encode) ∧
  (∀ (n : Notice) (s : State) (g : Regions), s.regions = some g →
    (n.body.cls.masked s.ntc.mask = true → post n s = s) ∧
    (n.body.cls.masked s.ntc.mask = false →
      (s.ntc.works = false → (post n s).ntc.discarded = s.ntc.discarded + 1 ∧ (post n s).ntc.produced = s.ntc.produced ∧
        (post n s).ntc.overflow = s.ntc.overflow ∧ (post n s).path = s.path) ∧
      (s.ntc.works = true → s.ntc.overflow = [] → s.ringRoom g = true →
        (post n s).ntc.produced = s.ntc.produced + 1 ∧ (post n s).ntc.discarded = s.ntc.discarded ∧
        (post n s).ntc.overflow = [] ∧
        (post n s).owesWrite .noticeWrite (g.nBase + 32 * (s.ntc.produced.toNat % 2 ^ g.nExp)) n.encode) ∧
      (s.ntc.works = true → (s.ntc.overflow ≠ [] ∨ s.ringRoom g = false) →
        s.ntc.overflow.length < (if n.body.cls.essential then 48 else 8) →
        (post n s).ntc.overflow = s.ntc.overflow ++ [n] ∧ (post n s).ntc.produced = s.ntc.produced ∧
        (post n s).ntc.discarded = s.ntc.discarded ∧ (post n s).path = s.path) ∧
      (s.ntc.works = true → (s.ntc.overflow ≠ [] ∨ s.ringRoom g = false) →
        (if n.body.cls.essential then 48 else 8) ≤ s.ntc.overflow.length →
        (post n s).ntc.discarded = s.ntc.discarded + 1 ∧ (post n s).ntc.overflow = s.ntc.overflow ∧
        (post n s).ntc.produced = s.ntc.produced ∧ (post n s).path = s.path)))

/-! ## Channel Front and journal -/

/-- FETCH_ISSUE: a 32-byte own read of the slot of the fetch position, with a place reserved and the fetch position advanced.
FETCH_DISCARDED_RETURN: the data of a discarded fetch is dropped and its place is free. -/
def Obligations.FetchIssuedOrDropped : Prop :=
  (∀ (phys : ChanNo) (i : Nat) (c : Chan) (s : State), s.logical phys = some i → s.chanAt i = some c →
    s.resetAsserted = false → s.draining = false →
    (s.lane.lane = .stopped ∨ s.lane.lane = .running ∨ s.lane.lane = .stepping ∨ s.lane.lane = .holding) →
    s.placesUsed c < 4 → c.fetch ≠ c.fill → (s.path.waiting.any fun r => r.origin.isFetch) = false →
    ∃ t c', exec (.fetchIssue phys) s = .next t ∧ t.chanAt i = some c' ∧ c'.fetch = c.fetch + 1 ∧
      c'.heads = c.heads ++ [.inflight s.path.nextOwn c.fetch] ∧ c'.cursor = c.cursor ∧ c'.fill = c.fill ∧
      c'.retain = c.retain ∧ t.owesRead (.fetch c.phys) (c.base + 32 * (c.fetch.toNat % 2 ^ c.k)) 32 ∧
      KeepsOtherChans i s t ∧ t.front.discarded = s.front.discarded ∧ KeepsPath s t ∧ KeepsPins s t ∧ KeepsImage s t ∧
      t.stager = s.stager ∧ t.commit = s.commit ∧ t.jrn = s.jrn ∧ t.cmd = s.cmd) ∧
  (∀ (s : State) (r : Ret), s.resetAsserted = false → s.path.ret s.isDiscardedRet = some r →
    ∃ t, exec .fetchDiscardedReturn s = .next t ∧
      t.front.discarded = s.front.discarded.filter (fun d => d.serial != r.req.serial) ∧
      t.front.chans = s.front.chans ∧ t.front.offsets = s.front.offsets ∧
      t.path.returns = s.path.returns.eraseP (Ret.isFor r.req.serial) ∧ t.path.answers = s.path.answers ∧
      t.path.fwd = s.path.fwd ∧ t.path.outst = s.path.outst ∧ KeepsPins s t ∧ KeepsImage s t ∧ t.merge = s.merge ∧
      t.stager = s.stager ∧ t.commit = s.commit ∧ t.jrn = s.jrn ∧ t.lane = s.lane ∧ t.cmd = s.cmd ∧ KeepsNotices s t)

/-- RECORD_LOAD of a record that fails a check, or whose fetch was answered MEMERR: rejected, counted, journaled REJECTED, posted; its
place is free and the accepted times stand. -/
def Obligations.RecordRejected : Prop :=
  ∀ (s : State) (phys : ChanNo) (i : Nat) (c : Chan) (n : Nat) (pos : Pos) (r : Ret) (why : Reason) (pt : Option PointNo)
    (arch : Option (BitVec 64)), s.fetchReturned phys i c n pos r →
    ((r.status = .memerr ∧ why = .memory ∧ pt = none ∧ arch = none) ∨
      (r.status = .ok ∧ s.recordFault c r.data = some why ∧ pt = some (rawPoint r.data) ∧ arch = some (rawArchive r.data))) →
    ∃ t c', exec (.recordLoad phys) s = .next t ∧ t.chanAt i = some c' ∧ c'.rejected = c.rejected + 1 ∧
      c'.heads = c.heads.filter (fun p => !p.holdsFetch n) ∧ c'.unj = c.unj ++ [(s.jrn.nextTok, pos)] ∧
      c'.lastTs = c.lastTs ∧ c'.lastCt = c.lastCt ∧ c'.expSeq = c.expSeq ∧ c'.lateCount = c.lateCount ∧
      Journals (.journalLoose c.phys s.jrn.nextTok) (.rejected (BitVec.ofNat 6 i) pos (pt.getD 0xFFFF) why) s t ∧
      PostsFirst { time := s.lane.r, group := s.lane.group, point := pt, chan := some (c.phys, BitVec.ofNat 6 i), arch := arch,
                   body := .rejected why } s t ∧
      KeepsOtherChans i s t ∧ KeepsPins s t ∧ KeepsImage s t ∧ t.stager = s.stager ∧ t.commit = s.commit ∧ t.cmd = s.cmd

/-- RECORD_LOAD of an accepted record at or above F: it takes its fetch's place, its channel is PRIMED and out of LAGGING, and the
accepted times and the expected sequence are its own; a break in sequence and a rejoin are posted. A record below F is counted late
and, by the late policy, journaled DROPPED or placed in the late group, dropped too when the stager is full; an ALIVE record is
journaled NO_POINT, and takes its channel out of LAGGING at or above F. An item joins the late group behind the items that do not come
after it, by time, then logical channel, then distance of the ring position. (The point that a late MARKER's DROPPED entry and notice
carry is the model's choice, log 38.) -/
def Obligations.AcceptedRecordDisposed : Prop :=
  ((∀ a b : Key, a.lt b = true ↔
      a.time < b.time ∨ (a.time = b.time ∧ (a.chan < b.chan ∨ (a.chan = b.chan ∧ a.dist < b.dist)))) ∧
    (∀ (s : State) (it : Item) (c : Chan), s.chanAt it.chan.toNat = some c →
      s.itemKey it = { time := it.keyTime.toNat, chan := it.chan.toNat, dist := (it.pos - c.start).toNat }) ∧
    (∀ (s : State) (it : Item) (l : List Item), ∃ a b, l = a ++ b ∧ s.insertItem it l = a ++ it :: b ∧
      (∀ x ∈ a, (s.itemKey it).lt (s.itemKey x) = false) ∧
      (∀ x, b.head? = some x → (s.itemKey it).lt (s.itemKey x) = true))) ∧
  (∀ (s : State) (phys : ChanNo) (i : Nat) (c : Chan) (n : Nat) (pos : Pos) (r : Ret) (k : RecKind) (ct : Nat) (rc : Rec),
     s.fetchReturned phys i c n pos r → s.accepts c pos r k ct rc → k ≠ .alive → s.lane.f.toNat ≤ ct →
     s.lane.lane ≠ .rewinding →
     ∃ t c', exec (.recordLoad phys) s = .next t ∧ t.chanAt i = some c' ∧
       c'.heads = c.heads.map (fun p => if p.holdsFetch n then .checked rc else p) ∧ c'.st = .primed ∧
       c'.lagging = false ∧ c'.lastTs = some rc.ts ∧ c'.lastCt = some (ct : Int) ∧
       c'.expSeq = some (rawSequence r.data + 1) ∧ c'.rejected = c.rejected ∧ c'.lateCount = c.lateCount ∧ c'.unj = c.unj ∧
       (∀ e, c.expSeq = some e → e ≠ rawSequence r.data →
         PostsFirst { time := s.lane.r, group := s.lane.group, point := none, chan := some (c.phys, BitVec.ofNat 6 i),
                      arch := some rc.arch, body := .seqBreak e (rawSequence r.data) } s t) ∧
       (c.lagging = true → (c.expSeq = none ∨ c.expSeq = some (rawSequence r.data)) →
         PostsFirst { time := s.lane.r, group := s.lane.group, point := none, chan := some (c.phys, BitVec.ofNat 6 i),
                      arch := none, body := .rejoined false rc.ct } s t) ∧
       KeepsOtherChans i s t ∧ KeepsPins s t ∧ KeepsImage s t ∧ t.stager = s.stager ∧ t.commit = s.commit ∧ t.jrn = s.jrn ∧
       t.cmd = s.cmd) ∧
  (∀ (s : State) (phys : ChanNo) (i : Nat) (c : Chan) (n : Nat) (pos : Pos) (r : Ret) (k : RecKind) (ct : Nat) (rc : Rec),
     s.fetchReturned phys i c n pos r → s.accepts c pos r k ct rc →
     (k = .alive ∨ ct < s.lane.f.toNat) →
     ∃ t c', exec (.recordLoad phys) s = .next t ∧ t.chanAt i = some c' ∧
       c'.heads = c.heads.filter (fun p => !p.holdsFetch n) ∧ c'.lastTs = some rc.ts ∧ c'.lastCt = some (ct : Int) ∧
       c'.expSeq = some (rawSequence r.data + 1) ∧ c'.rejected = c.rejected ∧
       (k = .alive → c'.lateCount = c.lateCount ∧ t.stager = s.stager ∧ (s.lane.f.toNat ≤ ct → c'.lagging = false) ∧
         Journals (.journalLoose c.phys s.jrn.nextTok) (.noPoint (BitVec.ofNat 6 i) pos) s t) ∧
       (k ≠ .alive → c'.lateCount = c.lateCount + 1 ∧
         (c.late = .drop ∨ s.stagerRoom = false → t.stager = s.stager ∧
           Journals (.journalLoose c.phys s.jrn.nextTok) (.dropped (BitVec.ofNat 6 i) pos rc.point rc.ct) s t ∧
           ((c.expSeq = none ∨ c.expSeq = some (rawSequence r.data)) →
             PostsFirst { time := s.lane.f, group := s.lane.group, point := some rc.point,
                          chan := some (c.phys, BitVec.ofNat 6 i), arch := some rc.arch,
                          body := .lateRecord (c.late == .apply) rc.ct } s t)) ∧
         (c.late = .apply → s.stagerRoom = true → t.jrn = s.jrn ∧ t.stager.cur = s.stager.cur ∧
           t.stager.late = s.insertItem (rc.item i true false) s.stager.late)) ∧
       KeepsOtherChans i s t ∧ KeepsPins s t ∧ KeepsImage s t ∧ t.commit = s.commit ∧ t.cmd = s.cmd)

/-- The KIND and POINT tests of a record that passes the tests before them (R39); and those tests, each where the ones before it pass:
CHECK by the sum of its words, ORDER by the last accepted timestamp, RANGE by timestamp, corrected time and STATUS value. -/
def Obligations.KindAndPointTests : Prop :=
  (∀ (s : State) (c : Chan) (bs : List Byte),
    (onesSum bs ≠ 65535 → s.recordFault c bs = some .check) ∧
    (onesSum bs = 65535 → (∃ t, c.lastTs = some t ∧ rawTimestamp bs < t.toNat) → s.recordFault c bs = some .order) ∧
    (onesSum bs = 65535 → (∀ t, c.lastTs = some t → t.toNat ≤ rawTimestamp bs) →
      (2 ^ 48 ≤ rawTimestamp bs ∨ (rawTimestamp bs : Int) + s.offsetOf c < 0 ∨
        2 ^ 48 ≤ (rawTimestamp bs : Int) + s.offsetOf c ∨ (rawKind bs = some .status ∧ 4 ≤ (rawValue bs).toNat)) →
      s.recordFault c bs = some .range)) ∧
  (∀ (s : State) (c : Chan) (bs : List Byte), onesSum bs = 65535 →
    (∀ t, c.lastTs = some t → t.toNat ≤ rawTimestamp bs) →
    rawTimestamp bs < 2 ^ 48 → 0 ≤ (rawTimestamp bs : Int) + s.offsetOf c →
    (rawTimestamp bs : Int) + s.offsetOf c < 2 ^ 48 → (rawKind bs = some .status → (rawValue bs).toNat < 4) →
    (s.recordFault c bs = some .kind ↔
      rawKind bs = none ∨
      (rawKind bs = some .status ∧ (rawPoint bs).toNat < s.points ∧ s.statusPoints ≤ (rawPoint bs).toNat) ∨
      (rawKind bs = some .analog ∧ (rawPoint bs).toNat < s.points ∧ (rawPoint bs).toNat < s.statusPoints)) ∧
    (s.recordFault c bs = some .point ↔
      (rawKind bs = some .status ∨ rawKind bs = some .analog) ∧ s.points ≤ (rawPoint bs).toNat) ∧
    ((rawKind bs = some .marker ∨ rawKind bs = some .alive) → s.recordFault c bs = none)) ∧
  (∀ (r : Rec) (i : Nat) (late unf : Bool), r.kind = .marker → (r.item i late unf).body = .marker r.point r.value r.arch) ∧
  (∀ (it : Item) (old : PointWord) (p : PointNo) (v : Word32) (a : BitVec 64) (s : State), it.body = .marker p v a →
    ∃ n, commitOne it old s = post n (handGroup (.marker it.chan it.pos) s) ∧ n.body = .marker v ∧ n.point = some p)

/-- JOURNAL_ENTRY_WRITTEN: the record holds its channel's cursor back no longer, and the cursor is the oldest position that does, or the
fetch position. The cursor is held back by the channel's items in the stager, a release item's position being that of its held record, by
the places of its head buffer, and by its records consumed whose journal write has not completed. (Where a release item names a record the
cursor has passed, the cursor waits where it stands and is not set back: the model's choice, log 47. That in a FAULTED lane the cursor can
pass records whose fetches were discarded: log 48.) -/
def Obligations.LooseEntryWritten : Prop :=
  (∀ (s : State) (i : Nat) (c : Chan) (x : Pos), x ∈ s.holdingBack i c ↔
    (∃ it, (it ∈ s.stager.cur ∨ it ∈ s.stager.late) ∧ it.chan.toNat = i ∧ it.pos = x) ∨
      (∃ p ∈ c.heads, p.pos = x) ∨ ∃ tok, (tok, x) ∈ c.unj) ∧
  (∀ (s : State) (i : Nat) (c : Chan),
    ∃ x, (x = c.fetch ∨ x ∈ s.holdingBack i c) ∧ c.dist x ≤ c.dist c.fetch ∧
      (∀ p ∈ s.holdingBack i c, c.dist x ≤ c.dist p) ∧
      s.cursorOf i c = if c.dist x < c.dist c.cursor then c.cursor else x) ∧
  (∀ (s : State) (r : Ret) (phys : ChanNo) (tok i : Nat) (c d : Chan), s.resetAsserted = false →
    s.path.ret Ret.isLooseWrite = some r → r.req.origin = .journalLoose phys tok → s.logical phys = some i →
    s.chanAt i = some c → d = { c with unj := c.unj.filter (fun u => u.1 != tok) } →
    ∃ t, exec .journalEntryWritten s = .next t ∧ t.chanAt i = some { d with cursor := s.cursorOf i d } ∧
      KeepsOtherChans i s t ∧ t.path.returns = s.path.returns.eraseP (Ret.isFor r.req.serial) ∧
      t.path.answers = s.path.answers ∧ t.path.fwd = s.path.fwd ∧ t.path.outst = s.path.outst ∧ KeepsPins s t ∧
      KeepsImage s t ∧ t.merge = s.merge ∧ t.stager = s.stager ∧ t.commit = s.commit ∧ t.jrn = s.jrn ∧ t.lane = s.lane ∧
      t.cmd = s.cmd ∧ KeepsNotices s t)

/-- JOURNAL_WRAP with one entry waiting: the oldest advances, what the overwritten entry names moves retain, GROUP_END entries are counted
off, the marks at the old position are lost, and the waiting entry takes the head. (That it takes the head as the read returns is log
12's choice; what an entry of no format changes is log 22's.) In a FAULTED lane the positions, the flags, the count and the marks
stand, and no entry is placed (log 12). -/
def Obligations.JournalWraps : Prop :=
  ∀ (s : State) (g : Regions) (n : Nat) (r : Ret) (h : Handed) (e : Option JEntry), s.resetAsserted = false →
    s.jrn.wrapRead = some n → s.regions = some g → s.path.ret (Ret.isFor n) = some r →
    (s.lane.lane = .faulted → ∃ t, exec .journalWrap s = .next t ∧ t.jrn = { s.jrn with wrapRead := none, inq := [] } ∧
      t.front = s.front ∧ t.path.returns = s.path.returns.eraseP (Ret.isFor r.req.serial) ∧ KeepsPins s t ∧
      KeepsImage s t ∧ t.merge = s.merge ∧ t.stager = s.stager ∧ t.commit = s.commit ∧ t.lane = s.lane ∧ t.cmd = s.cmd ∧
      KeepsNotices s t) ∧
    (s.lane.lane ≠ .faulted → s.jrn.inq = [h] → e = (if r.status = .memerr then none else JEntry.decode r.data) →
    ∃ t, exec .journalWrap s = .next t ∧ t.jrn.oldest = s.jrn.oldest + 1 ∧ t.jrn.wrapped = true ∧
      t.jrn.head = s.jrn.head + 1 ∧ t.owesWrite h.src.origin (g.entryAddr s.jrn.head) h.entry.encode ∧ t.jrn.inq = [] ∧
      t.jrn.wrapRead = none ∧ t.jrn.wholeSpan = e.any JEntry.isGroupEnd ∧
      t.jrn.geCount = (if e.any JEntry.isGroupEnd || r.status == .memerr then s.jrn.geCount - 1 else s.jrn.geCount) +
        (if h.entry.isGroupEnd then 1 else 0) ∧
      t.jrn.marks = s.jrn.marks.dropWhile (fun m => m.pos == s.jrn.oldest) ∧
      (∀ m more, s.jrn.marks = m :: more → m.pos = s.jrn.oldest →
        PostsFirst { time := s.lane.r, group := s.lane.group, point := none, chan := none, arch := none,
                     body := .markLost false m.r m.group m.pos } s t) ∧
      (∀ ch x c, e.bind JEntry.named = some (ch, x) → s.chanAt ch.toNat = some c →
        t.chanAt ch.toNat = some { c with
          retain := if c.dist (x + 1) ≤ c.dist c.retain then c.retain
                    else if c.dist c.cursor < c.dist (x + 1) then c.cursor else x + 1 } ∧ KeepsOtherChans ch.toNat s t) ∧
      (e.bind JEntry.named = none → t.front = s.front) ∧
      KeepsPins s t ∧ KeepsImage s t ∧ t.merge = s.merge ∧ t.stager = s.stager ∧ t.commit = s.commit ∧ t.lane = s.lane ∧
      t.cmd = s.cmd)

/-! ## The merge and the lane's admission -/

/-- Which channels block, and when the lane is blocked (R73). -/
def Obligations.BlockingChannels : Prop :=
  (∀ (s : State) (c : Chan), s.blockingChan c = true ↔
    c.calc = .empty ∧ (s.nextTg = none ∨ ∃ tg, s.nextTg = some tg ∧ c.known < ((tg + s.merge.quantum : Nat) : Int))) ∧
  (∀ (s : State) (c : Chan), (c.calc = .lagging ∨ c.calc = .fetching ∨ c.calc = .primed ∨ c.calc = .drained) →
    s.blockingChan c = false) ∧
  (∀ s : State, s.blocked = true ↔
    (s.lane.lane = .running ∨ s.lane.lane = .stepping) ∧ (s.commit.fly = none ∧ s.stager.late = []) ∧
    (s.formable = false ∨ s.nextTg = none) ∧ ∃ c ∈ s.front.chans, s.blockingChan c = true) ∧
  (∀ (s : State) (c : Chan) (tg : Nat), c ∈ s.front.chans → c.calc = .fetching → s.nextTg = some tg →
    c.known < ((tg + s.merge.quantum : Nat) : Int) →
    s.formable = false ∧ ((∀ d ∈ s.front.chans, s.blockingChan d = false) → s.blocked = false)) ∧
  (∀ (s : State) (c : Chan) (l : LaneState), (s.updLane fun t => { t with lane := l }).blockingChan c = s.blockingChan c)

/-- STARVATION_EXPIRY: each blocking channel that is no anchor becomes LAGGING, and CHANNEL_LAGGING is posted with its known time (a free
value where its field cannot show it, log 18); a blocking anchor puts the lane in HOLDING with ANCHOR_STARVED, and HOLD is posted; the
count returns to 0, and every other channel keeps its state. (That the row is an event apart from the tick is the model's choice, log 5.) -/
def Obligations.StarvationExpires : Prop :=
  ∀ s : State, s.resetAsserted = false → s.draining = false → s.merge.limit ≠ 0 → s.blocked = true →
    s.merge.limit ≤ s.merge.starve → s.laggingOk →
    ∃ t, exec .starvationExpiry s = .next t ∧ t.merge.starve = 0 ∧
      (∀ (i : Nat) (c : Chan), s.chanAt i = some c → s.blockingChan c = true → c.anchor = false →
        (∃ c', t.chanAt i = some c' ∧ c'.st = .lagging ∧ c'.lagging = true ∧ c'.lessState = c.lessState) ∧
          PostsChan i c (.lagging (shown c.known)) s t) ∧
      (∀ (i : Nat) (c : Chan), s.chanAt i = some c → (s.blockingChan c = false ∨ c.anchor = true) →
        ∃ c', t.chanAt i = some c' ∧ c'.st = c.calc ∧ c'.lessState = c.lessState) ∧
      (s.anchorBlocks = true → s.lane.holdsOk → t.lane.lane = .holding ∧ t.lane.holds.anchorStarved = true ∧
        t.lane.c = s.lane.c ∧ PostsLane (.hold .anchorStarved s.lane.c) s t) ∧
      s.lane.keepsClock t.lane ∧ KeepsPins s t ∧ KeepsImage s t ∧ t.stager = s.stager ∧ t.commit = s.commit ∧ t.jrn = s.jrn ∧
      t.cmd = s.cmd

/-- PACE_ADVANCE: C gains the whole 1,024s of the accumulator and not past its limit; the accumulator keeps the remainder, and is 0 at
the limit or when the lane has left RUNNING. The limit is the least of the safe time, the stop time and 2^48 - 1; the safe time is the
least known time of the FETCHING and EMPTY channels. Where C reaches the stop time, the next Tg lies beyond it and no group is in flight or
waits, STOP_TIME joins the set, STOP_REACHED is posted and the stop time is absent; an end of history not yet reported is reported and
stops the lane; otherwise it stays RUNNING. (That a lane goes on where the end of history holds and has been reported already, as after a
hold whose condition has let it run again, is the model's deduction, log 16.) An event that may move the limit ends with the accumulator 0
where, in PACED running, C stands at or above it. -/
def Obligations.ClockAdvances : Prop :=
  (∀ s : State, s.paceLimit ≤ 2 ^ 48 - 1 ∧ (∀ x, s.lane.stopTime = some x → s.paceLimit ≤ (x.toNat : Int)) ∧
    (∀ x, s.safe = some x → s.paceLimit ≤ x) ∧
    (s.paceLimit = 2 ^ 48 - 1 ∨ (∃ x, s.lane.stopTime = some x ∧ s.paceLimit = (x.toNat : Int)) ∨ s.safe = some s.paceLimit)) ∧
  (∀ s : State,
    (s.safe = none ↔ ∀ c ∈ s.front.chans, c.calc ≠ .fetching ∧ c.calc ≠ .empty) ∧
    (∀ x, s.safe = some x → (∀ c ∈ s.front.chans, c.calc = .fetching ∨ c.calc = .empty → x ≤ c.known) ∧
      ∃ c ∈ s.front.chans, (c.calc = .fetching ∨ c.calc = .empty) ∧ c.known = x)) ∧
  (∀ s t : State, (t = settle s ∨ t = settleKeep s) → t.lane.lane = .running → t.lane.runMode = .paced →
    t.paceLimit ≤ (t.lane.c.toNat : Int) → t.lane.acc = 0) ∧
  ∀ s : State, s.resetAsserted = false → s.draining = false → s.lane.lane = .running → s.lane.runMode = .paced →
    1024 ≤ s.lane.acc →
    ∃ t, exec .paceAdvance s = .next t ∧
      (s.paceLimit ≤ (s.lane.c.toNat : Int) → t.lane.c = s.lane.c ∧ t.lane.acc = 0) ∧
      ((s.lane.c.toNat : Int) < s.paceLimit → s.paceLimit ≤ ((s.lane.c.toNat + s.lane.acc / 1024 : Nat) : Int) →
        t.lane.c = BitVec.ofInt 48 s.paceLimit ∧ t.lane.acc = 0) ∧
      (((s.lane.c.toNat + s.lane.acc / 1024 : Nat) : Int) < s.paceLimit →
        t.lane.c = BitVec.ofNat 48 (s.lane.c.toNat + s.lane.acc / 1024) ∧
        t.lane.acc = (if t.lane.lane = .running then s.lane.acc % 1024 else 0)) ∧
      t.lane.runMode = s.lane.runMode ∧
      (s.lane.holdsOk →
        (t.historyEnded = true → s.merge.ended = false → t.lane.lane = .stopped ∧ t.lane.holds = Holds.none ∧
          PostsLane (.endOfHistory t.lane.f t.lane.c) s t) ∧
        ((t.historyEnded = false ∨ s.merge.ended = true) →
          (∀ x tg, s.lane.stopTime = some x → t.nextTg = some tg → x.toNat < tg → s.commit.fly = none → s.stager.late = [] →
            x.toNat ≤ t.lane.c.toNat →
            t.lane.lane = .holding ∧ t.lane.resume = .running ∧ t.lane.holds = { Holds.none with stopTime := true } ∧
              t.lane.stopTime = none ∧ PostsLane (.stopTime t.lane.c x (BitVec.ofNat 48 tg)) s t) ∧
          ((s.commit.fly ≠ none ∨ s.stager.late ≠ [] ∨
              ∀ x tg, s.lane.stopTime = some x → t.nextTg = some tg → x.toNat < tg → t.lane.c.toNat < x.toNat) →
            t.lane.lane = .running ∧ t.lane.holds = Holds.none ∧ t.lane.stopTime = s.lane.stopTime))) ∧
      s.lane.keepsClock t.lane ∧ KeepsPins s t ∧ KeepsImage s t ∧ KeepsChans s t ∧ t.stager = s.stager ∧
      t.commit = s.commit ∧ t.jrn = s.jrn ∧ t.cmd = s.cmd

/-- GROUP_ADMIT: the late group is admitted with time R and its items are the group in flight; a timed group begins to form with its Tg,
and C takes Tg unless the lane runs PACED; lane state, hold reasons, stop time, stop and step counts stay; in a lane that does not run, nothing is admitted. (A waiting command acts first: log 25.) -/
def Obligations.GroupAdmitted : Prop :=
  ∀ s : State,
    ((s.lane.lane ≠ .running ∧ s.lane.lane ≠ .stepping) → exec .groupAdmit s = .next s) ∧
    (s.admits = true → s.offered = some .late →
      ∃ t, exec .groupAdmit s = .next t ∧ t.stager = { cur := s.stager.late, late := [] } ∧
        t.commit.fly = some { late := true, split := false, tg := s.lane.r, phase := .announced, done := 0, reading := none,
                              writes := [], hits := List.replicate 32 none } ∧
        t.lane.c = s.lane.c ∧ s.lane.keepsClock t.lane ∧ (s.lane.holdsOk → AdmitsLane s t) ∧ t.commit.flag = s.commit.flag ∧
        KeepsPins s t ∧ KeepsImage s t ∧ KeepsChans s t ∧ t.merge.dwell = s.merge.dwell ∧ t.jrn = s.jrn ∧ t.cmd = s.cmd) ∧
    (∀ tg, s.admits = true → s.offered = some (.timed tg) → tg < 2 ^ 48 →
      (∀ x, s.lane.stopTime = some x → tg ≤ x.toNat) → (s.paced = true → tg ≤ s.lane.c.toNat) →
      ∃ t, exec .groupAdmit s = .next t ∧ t.stager = s.stager ∧
        t.commit.fly = some { late := false, split := false, tg := BitVec.ofNat 48 tg, phase := .forming, done := 0,
                              reading := none, writes := [], hits := List.replicate 32 none } ∧
        t.lane.c.toNat = max s.lane.c.toNat tg ∧ s.lane.keepsClock t.lane ∧ (s.lane.holdsOk → AdmitsLane s t) ∧
        t.commit.flag = s.commit.flag ∧ KeepsPins s t ∧ KeepsImage s t ∧ KeepsChans s t ∧ t.merge.dwell = s.merge.dwell ∧ t.jrn = s.jrn ∧ t.cmd = s.cmd)

/-! ## Formation and the chatter filter -/

/-- FORMATION_PULL: with no candidate formation ends; a dwell entry becomes a release item; a head record that the filter does not
concern becomes a record or marker item; without a free place the group is split. A pull waits for a FETCHING channel that may
still deliver a record that comes first. The candidate is the least of the timed items, the head records of PRIMED channels at or above
F that are not ALIVE and the dwell entries, where it lies in the window. -/
def Obligations.FormationPulls : Prop :=
  ((∀ (s : State) (k : Key) (i : Nat) (r : Rec), (k, Source.head i r) ∈ s.timedItems ↔
      ∃ c, s.chanAt i = some c ∧ c.calc = .primed ∧ c.head = some r ∧ r.kind ≠ .alive ∧ s.lane.f.toNat ≤ r.ct.toNat ∧
        k = { time := r.ct.toNat, chan := i, dist := (r.pos - c.start).toNat }) ∧
    (∀ (s : State) (k : Key) (e : DwellEntry), (k, Source.dwell e) ∈ s.timedItems ↔ e ∈ s.merge.dwell ∧ k = s.dwellKey e) ∧
    (∀ (s : State) (e : DwellEntry), (s.dwellKey e).time = e.release.toNat ∧ (s.dwellKey e).chan = e.item.chan.toNat) ∧
    (∀ (s : State) (f : Flight), s.candidate f = none ↔ ∀ x ∈ s.timedItems, f.tg.toNat + s.merge.quantum ≤ x.1.time) ∧
    (∀ (s : State) (f : Flight) (x : Key × Source), s.candidate f = some x →
      x ∈ s.timedItems ∧ x.1.time < f.tg.toNat + s.merge.quantum ∧ ∀ y ∈ s.timedItems, y.1.lt x.1 = false)) ∧
  (∀ (s : State) (f : Flight), s.mayPull f = true ↔ s.merge.filter = none ∧ ∀ c ∈ s.front.chans, c.calc = .fetching →
    (s.candidate f).elim (((f.tg.toNat + s.merge.quantum : Nat) : Int) ≤ c.known) (fun x => (x.1.time : Int) < c.known)) ∧
  ∀ (s : State) (f : Flight), s.resetAsserted = false → s.draining = false → s.forming = some f → s.mayPull f = true →
    (s.candidate f = none →
      ∃ t, exec .formationPull s = .next t ∧ t.commit = { s.commit with fly := some { f with phase := .announced, split := false } } ∧
        t.stager = s.stager ∧ t.merge.dwell = s.merge.dwell ∧ KeepsChans s t ∧ t.jrn = s.jrn ∧ t.lane.c = s.lane.c ∧
        KeepsRest s t ∧ KeepsPath s t) ∧
    (∀ k e, s.candidate f = some (k, .dwell e) →
      ∃ t, exec .formationPull s = .next t ∧
        (s.stagerRoom = true → Staged { body := .release e.point e.item.value e.item.quality, time := e.item.time,
                                        chan := e.item.chan, pos := e.item.pos, keyTime := e.release, late := false } s t ∧
          t.merge.dwell = s.merge.dwell.filter (fun d => d.point != e.point) ∧ KeepsChans s t ∧ t.jrn = s.jrn) ∧
        (s.stagerRoom = false → SplitsGroup f s t) ∧ t.lane.c = s.lane.c ∧ KeepsRest s t ∧ KeepsPath s t) ∧
    (∀ k i r c, s.candidate f = some (k, .head i r) → s.chanAt i = some c →
      (r.kind ≠ .status ∨ (((s.dirAt r.point).map (·.dwell)).getD 0 = 0 ∧ findDwell s.merge.dwell r.point = none)) →
      ∃ t, exec .formationPull s = .next t ∧
        (s.stagerRoom = true → Staged (r.item i false false) s t ∧ BecomesChan i (c.without r.pos) s t ∧
          t.merge.dwell = s.merge.dwell ∧ t.jrn = s.jrn) ∧
        (s.stagerRoom = false → SplitsGroup f s t) ∧ t.lane.c = s.lane.c ∧ KeepsRest s t ∧ KeepsPath s t)

/-- FORMATION_PULL of a STATUS record of a filtered point. A repeat, and a record whose point has no standing value on chip, read the
point's word; the standing value is that of the group's last record or release item for the point, and where it has none the
last-change's; against it the filter decides.
FILTER_WORD_READ: the repeat is consumed and journaled DUPLICATE with the word as it stands; any other is decided against the word. -/
def Obligations.ChatterFilter : Prop :=
  ((∀ (p : PointNo) (v : Word32) (it : Item), Item.sets p it = some v ↔
      (∃ q a unf, it.body = .record p v q a unf) ∨ ∃ q, it.body = .release p v q) ∧
    (∀ (s : State) (p : PointNo) (v : Word32) (before after : List Item) (it : Item), s.stager.cur = before ++ it :: after →
      Item.sets p it = some v → (∀ x ∈ after, Item.sets p x = none) → s.standing p = some v) ∧
    (∀ (s : State) (p : PointNo), (∀ x ∈ s.stager.cur, Item.sets p x = none) →
      s.standing p = ((s.dirAt p).bind (·.lastChange)).map (·.value))) ∧
  ((∀ c : BitVec 2, dwellTime c = if c = 0 then 0 else if c = 1 then 2000 else if c = 2 then 8000 else 32000) ∧
   ∀ (s : State) (f : Flight) (k : Key) (i : Nat) (r : Rec) (c : Chan) (cls : BitVec 2), s.resetAsserted = false →
     s.draining = false → s.forming = some f → s.mayPull f = true → s.candidate f = some (k, .head i r) →
     s.chanAt i = some c → r.kind = .status → cls = ((s.dirAt r.point).map (·.dwell)).getD 0 →
     (cls ≠ 0 ∨ (findDwell s.merge.dwell r.point).isSome = true) →
     ∃ t, exec .formationPull s = .next t ∧
       ((∀ e, findDwell s.merge.dwell r.point = some e → e.item.value = r.value →
           t.owesRead .filterRead (s.wordAddr r.point) 8 ∧ Unstaged s t ∧ KeepsChans s t ∧ t.merge.dwell = s.merge.dwell ∧
           t.jrn = s.jrn ∧
           t.merge.filter = some { serial := s.path.nextOwn, chan := BitVec.ofNat 6 i, cls := cls, repeats := true }) ∧
         ((∀ e, findDwell s.merge.dwell r.point = some e → e.item.value ≠ r.value) →
           (s.standing r.point = none →
             t.owesRead .filterRead (s.wordAddr r.point) 8 ∧ Unstaged s t ∧ KeepsChans s t ∧ t.merge.dwell = s.merge.dwell ∧
             t.jrn = s.jrn ∧
             t.merge.filter = some { serial := s.path.nextOwn, chan := BitVec.ofNat 6 i, cls := cls, repeats := false }) ∧
           (∀ v, s.standing r.point = some v → Filtered f i c r cls v s t))) ∧
       t.lane.c = s.lane.c ∧ KeepsRest s t ∧ KeepsPath s t) ∧
  (∀ (s : State) (f : Flight) (op : FilterOp) (r : Ret) (rc : Rec) (c : Chan), s.resetAsserted = false → s.draining = false →
     s.commit.fly = some f → s.merge.filter = some op → s.path.ret (Ret.isFor op.serial) = some r → r.status = .ok →
     s.chanAt op.chan.toNat = some c → c.head = some rc →
     ∃ t, exec .filterWordRead s = .next t ∧ t.merge.filter = none ∧
       t.path.returns = s.path.returns.eraseP (Ret.isFor op.serial) ∧
       (op.repeats = true → Unstaged s t ∧ BecomesChan op.chan.toNat (c.journaled rc.pos s.jrn.nextTok) s t ∧
         t.merge.dwell = s.merge.dwell ∧
         Journals (.journalLoose c.phys s.jrn.nextTok) (.duplicate op.chan rc.pos rc.point (PointWord.read r.data)) s t) ∧
       (op.repeats = false → Filtered f op.chan.toNat c rc op.cls (PointWord.read r.data).value s t) ∧
       t.lane.c = s.lane.c ∧ KeepsRest s t ∧ t.path.answers = s.path.answers ∧ t.path.fwd = s.path.fwd ∧
       t.path.held = s.path.held ∧ t.path.outst = s.path.outst)

/-! ## Group Commit -/

/-- COMMIT_BEGIN: with every window read forwarded answered and no waiting command to act first (log 25), the flag is set, the match counts are 0
and the old word of the first item is read, unless it names no point; a group of no item hands in its GROUP_END at once. -/
def Obligations.CommitBegins : Prop :=
  (∀ (s : State) (f : Flight), s.resetAsserted = false → s.draining = false → s.announced = some f →
    s.path.windowReadsOut = false → s.capturing = false → s.waiterReady = false → s.stager.cur = [] →
    ∃ t g, exec .commitBegin s = .next t ∧ t.commit = { flag := true, fly := some g, watches := s.commit.watches } ∧
      g.phase = .ended ∧ g.writes = [] ∧ g.hits = List.replicate 32 none ∧ g.late = f.late ∧ g.split = f.split ∧
      g.tg = f.tg ∧
      Journals .journalGroup (.groupEnd s.lane.group (if f.late then .late else if f.split then .split else .timed) f.tg
        s.lane.r s.lane.f 0) s t ∧
      t.stager = s.stager ∧ t.front = s.front ∧ t.merge = s.merge ∧ t.lane = s.lane ∧ KeepsRest s t ∧ KeepsPath s t ∧
      KeepsNotices s t) ∧
  ∀ (s : State) (f : Flight) (it : Item) (more : List Item), s.resetAsserted = false → s.draining = false →
    s.announced = some f → s.path.windowReadsOut = false → s.capturing = false → s.waiterReady = false →
    s.stager.cur = it :: more →
    ∃ t g, exec .commitBegin s = .next t ∧ t.commit = { flag := true, fly := some g, watches := s.commit.watches } ∧
      g.phase = .committing ∧ g.done = 0 ∧ g.writes = [] ∧ g.hits = List.replicate 32 none ∧ g.late = f.late ∧
      g.split = f.split ∧ g.tg = f.tg ∧
      (∀ p, it.point = some p → g.reading = some s.path.nextOwn ∧ t.owesRead .commitRead (s.wordAddr p) 8) ∧
      (it.point = none → g.reading = none) ∧
      t.stager = s.stager ∧ t.front = s.front ∧ t.merge = s.merge ∧ t.jrn = s.jrn ∧ t.lane = s.lane ∧ KeepsRest s t ∧
      KeepsPath s t ∧ KeepsNotices s t

/-- COMMIT_ITEM of a record that is no duplicate, or of a release: the new word is written, an APPLIED entry saves what it replaces, the
directory takes the item's time, value and channel, a ONCE override ends, and the watches on the point are evaluated. When a slot
matches, and when a record item is a duplicate. (The 2 bytes of a release lead above 65,535 are a free value, log 46.) -/
def Obligations.AppliedItem : Prop :=
  (∀ (s : State) (f : Flight) (it : Item) (old : PointWord) (p : PointNo) (v : Word32) (q : BitVec 8) (unf rel : Bool)
     (arch : Option (BitVec 64)) (d : DirEntry) (new : PointWord),
     s.resetAsserted = false → s.draining = false → s.faultComes = false → s.committing = some f →
     s.readyItem f = some (it, old) → (s.path.waiting.any fun r => r.origin.isCommit) = false → s.dirAt p = some d →
     ((∃ a, it.body = .record p v q a unf ∧ arch = some a ∧ rel = false ∧
         isDuplicate s.merge.window v it.chan it.time d.lastChange = false) ∨
       (it.body = .release p v q ∧ arch = none ∧ rel = true ∧ unf = false)) →
     new = { value := v, quality := q ||| (if it.late then 0x04 else 0) ||| (if unf then 0x08 else 0),
             count := if v = old.value then old.count else old.count + 1, source := sourceOf it.chan d.kind,
             phase := s.lane.group.setWidth 8 } →
     ∃ t g, exec .commitItem s = .next t ∧ t.owesWrite .commitWrite (s.wordAddr p) new.toBytes ∧
       t.dirAt p = some { d with lastChange := some { time := it.time, value := v, chan := it.chan },
                                 lastGood := if q &&& 0x03 = 0 then some v else d.lastGood } ∧
       (∀ x, x ≠ p → t.dirAt x = s.dirAt x) ∧
       Places .journalGroup (.applied it.chan it.pos p it.late unf rel (d.lastChange.map fun c => (c.time, c.chan)) d.lastGood old
         (if rel then leadField (it.keyTime.toNat - it.time.toNat) else 0)) s t ∧
       (∀ o, findOvr s.ovr p = some o → o.policy = .once → t.ovr = s.ovr.filter (fun e => e.point != p) ∧
         PostsFirst { time := it.time, group := s.lane.group, point := some p,
                      chan := (s.chanAt it.chan.toNat).map fun c => (c.phys, it.chan), arch := none,
                      body := .overrideEnded o.value o.originR o.originGroup } s t) ∧
       ((∀ o, findOvr s.ovr p = some o → o.policy = .pin) → t.ovr = s.ovr) ∧
       t.commit.fly = some g ∧ t.commit.flag = s.commit.flag ∧ t.commit.watches = s.commit.watches ∧ g.done = f.done + 1 ∧
       g.writes = { point := p, oldWord := old, newWord := new, oldChange := d.lastChange, oldGood := d.lastGood } :: f.writes ∧
       (∀ (n : Nat) (w : Watch) (h : Option Hit), (s.commit.watches[n]?).join = some w → f.hits[n]? = some h →
         g.hits[n]? = some (if w.point = p ∧ w.cond.holds old new = true then
           some (h.elim { count := 1, time := it.time, value := v, chan := it.chan, arch := arch }
             (fun x => { x with count := x.count + 1 })) else h)) ∧
       t.regions = s.regions ∧ t.img = s.img ∧ KeepsPins s t ∧ t.front = s.front ∧ t.merge = s.merge ∧
       t.stager = s.stager ∧ t.lane = s.lane ∧ t.cmd = s.cmd) ∧
  (∀ n : Nat, n < 65536 → leadField n = BitVec.ofNat 16 n) ∧
  ((∀ old new : PointWord, WatchCond.anyChange.holds old new = true ↔ new.value ≠ old.value) ∧
   (∀ (old new : PointWord) (v : Word32), (WatchCond.equals v).holds old new = true ↔ new.value = v) ∧
   (∀ (old new : PointWord) (q : BitVec 8), (WatchCond.qualitySet q).holds old new = true ↔ new.quality &&& q ≠ 0) ∧
   (∀ (w : Nat) (v : Word32) (ch : ChanNo) (t : Time) (o : Option LastChange), isDuplicate w v ch t o = true ↔
     ∃ c, o = some c ∧ v = c.value ∧ ch ≠ c.chan ∧ t.toNat - c.time.toNat ≤ w ∧ c.time.toNat - t.toNat ≤ w))

/-- COMMIT_ITEM of the other items: a duplicate writes the old word with CORROBORATED, a chatter item with CHATTER, each with its entry;
a marker writes no word and posts MARKER. Directory, overrides and match counts stand. Behind the entry of the group's last item, of
whatever kind, its GROUP_END is handed in. Once an answer MEMERR has come that faults the lane, of whatever own access, no further item is
taken (the model's deduction, log 37: R96 speaks of the commit's own accesses). (The 2 bytes of a lead above 65,535 are a free value, log
46.) -/
def Obligations.OtherItems : Prop :=
  (∀ s : State, s.faultComes = true → exec .commitItem s = .next s) ∧
  (∀ s : State, s.faultComes = true ↔
    ∃ r ∈ s.path.returns, r.status = .memerr ∧ ∃ code, r.req.origin.faultCode = some code) ∧
  ∀ (s : State) (f : Flight) (it : Item) (old : PointWord), s.resetAsserted = false → s.draining = false →
    s.faultComes = false → s.committing = some f → s.readyItem f = some (it, old) →
    (s.path.waiting.any fun r => r.origin.isCommit) = false →
    (∀ p v q a unf, it.body = .record p v q a unf →
      isDuplicate s.merge.window v it.chan it.time ((s.dirAt p).bind (·.lastChange)) = true →
      ∃ t, exec .commitItem s = .next t ∧
        t.owesWrite .commitWrite (s.wordAddr p) { old with quality := old.quality ||| 0x10 }.toBytes ∧
        Places .journalGroup (.duplicate it.chan it.pos p old) s t ∧
        (t.commit.fly.map fun g => (g.done, g.hits)) = some (f.done + 1, f.hits) ∧ t.commit.flag = s.commit.flag ∧
        KeepsImage s t ∧ KeepsPins s t ∧ t.front = s.front ∧ t.merge = s.merge ∧ t.stager = s.stager ∧ t.lane = s.lane ∧
        t.cmd = s.cmd ∧ KeepsNotices s t) ∧
    (∀ p h rel, it.body = .chatter p h rel →
      ∃ t, exec .commitItem s = .next t ∧
        t.owesWrite .commitWrite (s.wordAddr p) { old with quality := old.quality ||| 0x20 }.toBytes ∧
        Places .journalGroup (.chatter it.chan it.pos p old h (leadField (rel.toNat - h.time.toNat))) s t ∧
        (t.commit.fly.map fun g => (g.done, g.hits)) = some (f.done + 1, f.hits) ∧ t.commit.flag = s.commit.flag ∧
        KeepsImage s t ∧ KeepsPins s t ∧ t.front = s.front ∧ t.merge = s.merge ∧ t.stager = s.stager ∧ t.lane = s.lane ∧
        t.cmd = s.cmd ∧ KeepsNotices s t) ∧
    (∀ p v a, it.body = .marker p v a →
      ∃ t, exec .commitItem s = .next t ∧ Places .journalGroup (.marker it.chan it.pos) s t ∧
        PostsFirst { time := it.time, group := s.lane.group, point := some p,
                     chan := (s.chanAt it.chan.toNat).map fun c => (c.phys, it.chan), arch := some a,
                     body := .marker v } s t ∧
        (t.commit.fly.map fun g => (g.done, g.hits, g.writes)) = some (f.done + 1, f.hits, f.writes) ∧
        t.commit.flag = s.commit.flag ∧ KeepsImage s t ∧ KeepsPins s t ∧ t.front = s.front ∧ t.merge = s.merge ∧
        t.stager = s.stager ∧ t.lane = s.lane ∧ t.cmd = s.cmd) ∧
    (s.stager.cur.length = f.done + 1 →
      ∃ t, exec .commitItem s = .next t ∧ (t.commit.fly.map (·.phase)) = some .ended ∧
        (∀ g, s.regions = some g → s.jrn.inq = [] → s.jrn.wrapRead = none → s.jrn.heldCount + 2 ≤ 2 ^ g.jExp →
          t.jrn.head = s.jrn.head + 2 ∧ t.owesWrite .journalGroup (g.entryAddr (s.jrn.head + 1))
            (JEntry.groupEnd s.lane.group (if f.late then .late else if f.split then .split else .timed) f.tg s.lane.r s.lane.f
              (BitVec.ofNat 16 s.stager.cur.length)).encode) ∧
        t.commit.flag = s.commit.flag ∧ t.front = s.front ∧ t.merge = s.merge ∧ t.stager = s.stager ∧ t.lane = s.lane ∧
        t.cmd = s.cmd)

/-- COMMIT_BOUNDARY: the clock values advance by the group's kind; the group's items leave; the flag clears and the held reads are
forwarded; the cursors move; each checked record below a risen F is counted late and leaves its head buffer, and then, where a new skew
offset of its channel's set transfers, each that stays is re-timed, rejected or counted late; stop count and step count are counted;
pending pace, stop time, stop count and skew offsets transfer; a waiting STOP or spent steps stop the lane, and a HALT watch holds it
unless history has ended. Otherwise the end of history stops the lane with END_OF_HISTORY, a stop count that was 1 joins the set as
STOP_COUNT, and a non-empty overflow buffer as NOTICE_FULL; a lane that ran or stepped goes on unless a reason joins or the stop time holds
it, and which reasons have joined is told. C stays, but is raised to a stop time that holds the lane. The values SET_CHANNEL left
pending are taken, CHANNEL_REJOINED posted for a LAGGING channel they make an anchor. WATCH_HIT is posted for each slot that matched,
STOP_REACHED for the stop count and the stop time, STEP_DONE where the steps are spent, and HOLD for WATCH and NOTICE_FULL as they join
the set. (That the stop time does not join the set where WATCH, the stop count or NOTICE_FULL joins it at this boundary is the model's
deduction, log 39: R113 compares it only in a lane that runs or steps, while R109 has one reached while WATCH holds the lane join.) -/
def Obligations.CommitBoundary : Prop :=
  ∀ (s : State) (f : Flight), s.resetAsserted = false → s.draining = false → s.endedFlight = some f → s.commitDone = true →
    s.lane.holdsOk →
    ∃ t, exec .commitBoundary s = .next t ∧ t.commit = { s.commit with flag := false, fly := none } ∧ t.stager.cur = [] ∧
      t.path.held = [] ∧ t.path.fwd = s.path.fwd ++ s.path.held ∧ t.path.outst = s.path.outst ∧
      t.path.answers = s.path.answers ∧ t.lane.group = s.lane.group + 1 ∧
      (f.late = true → t.lane.r = s.lane.r ∧ t.lane.f = s.lane.f) ∧
      (f.late = false → f.split = true → t.lane.r = f.tg ∧ t.lane.f = f.tg) ∧
      (f.late = false → f.split = false → t.lane.r = f.tg ∧
        (f.tg.toNat + s.merge.quantum ≤ 2 ^ 48 - 1 → t.lane.f.toNat = max s.lane.f.toNat (f.tg.toNat + s.merge.quantum)) ∧
        (2 ^ 48 - 1 < f.tg.toNat + s.merge.quantum → t.lane.f = f.tg)) ∧
      t.lane.pace = s.lane.pend.pace.getD s.lane.pace ∧ t.lane.pend = Pend.empty ∧
      t.lane.runMode = s.lane.runMode ∧
      (t.lane.c = s.lane.c ∨ (t.lane.holds.stopTime = true ∧ s.lane.holds.stopTime = false)) ∧
      t.lane.stopCount = (s.lane.pend.stopCount.map (·.1)).getD
        (if s.lane.stopCount = 1 then s.lane.reload else if s.lane.stopCount = 0 then 0 else s.lane.stopCount - 1) ∧
      t.lane.reload = (s.lane.pend.stopCount.map (·.2)).getD s.lane.reload ∧
      (t.lane.stopTime = s.lane.pend.stopTime.getD s.lane.stopTime ∨
        (t.lane.stopTime = none ∧ t.lane.lane = .holding ∧ t.lane.holds.stopTime = true)) ∧
      (∀ (n : Nat) old, n < 16 → s.front.offsets[n]? = some old →
        t.front.offsets[n]? = some (((s.lane.pend.skew[n]?).join).getD old)) ∧
      t.lane.stepped = (if s.lane.lane = .stepping then s.lane.stepped + 1 else s.lane.stepped) ∧
      (s.lane.lane = .stepping → 1 < s.lane.steps → s.stopWaits = false →
        ((t.lane.lane = .stepping ∨ t.lane.lane = .holding) ∧ t.lane.steps = s.lane.steps - 1) ∨
          (t.lane.lane = .stopped ∧ t.historyEnded = true)) ∧
      (∀ i c, s.chanAt i = some c → ∃ c', t.chanAt i = some c' ∧ c'.fetch = c.fetch ∧ c'.fill = c.fill ∧
        c'.retain = c.retain ∧ c'.cursor = (s.updStager fun g => { g with cur := [] }).cursorOf i c ∧
        c.takesSet c' ∧ RejoinsAnchor i c s t ∧
        ((s.lane.pend.skew[c.skewSet.toNat]?).join = none →
          (t.lane.f.toNat ≤ s.lane.f.toNat → c'.heads = c.heads ∧ c'.lateCount = c.lateCount) ∧
          (s.lane.f.toNat < t.lane.f.toNat →
            c'.lateCount = c.lateCount +
              BitVec.ofNat 32 (c.checkedRecs.filter fun r => r.ct.toNat < t.lane.f.toNat).length ∧
            ((c.heads.map Place.pos).Nodup → c'.heads = c.heads.filter fun p => match p with
              | .checked r => t.lane.f.toNat ≤ r.ct.toNat
              | .inflight _ _ => true))) ∧
        (∀ off stay, (s.lane.pend.skew[c.skewSet.toNat]?).join = some off → (c.heads.map Place.pos).Nodup →
          stay = c.checkedRecs.filter (Rec.staysAt s.lane.f t.lane.f) →
          (off.toInt = s.offsetOf c → c'.rejected = c.rejected ∧
            c'.lateCount = c.lateCount + BitVec.ofNat 32 (c.checkedRecs.length - stay.length) ∧
            c'.heads = c.heads.filter (Place.staysAt s.lane.f t.lane.f)) ∧
          (off.toInt ≠ s.offsetOf c →
            c'.rejected = c.rejected +
              BitVec.ofNat 32 (stay.filter fun r => r.timeUnder off < 0 || 2 ^ 48 ≤ r.timeUnder off).length ∧
            c'.lateCount = c.lateCount + BitVec.ofNat 32 (c.checkedRecs.length - stay.length +
              (stay.filter fun r => 0 ≤ r.timeUnder off && r.timeUnder off < (t.lane.f.toNat : Int)).length) ∧
            c'.heads = (c.heads.filter (Place.staysAt s.lane.f t.lane.f)).filterMap (Place.retimed off t.lane.f)))) ∧
      (∀ n h w, n < 32 → (f.hits[n]?).join = some h → (s.commit.watches[n]?).join = some w →
        PostsIn { time := h.time, group := s.lane.group, point := some w.point,
                  chan := (s.chanAt h.chan.toNat).map fun c => (c.phys, h.chan), arch := h.arch,
                  body := .watchHit (BitVec.ofNat 5 n) (BitVec.ofNat 16 h.count) h.value } s t) ∧
      (s.lane.stopCount = 1 → PostsLane (.stopCount s.lane.c) s t) ∧
      (t.lane.holds.stopTime = true → s.lane.holds.stopTime = false →
        ∃ x tg, s.lane.pend.stopTime.getD s.lane.stopTime = some x ∧ t.nextTg = some tg ∧ x.toNat < tg ∧
          t.lane.c.toNat = max s.lane.c.toNat x.toNat ∧ t.lane.stopTime = none ∧
          PostsLane (.stopTime t.lane.c x (BitVec.ofNat 48 tg)) s t) ∧
      (s.stopWaits = false → s.lane.lane = .stepping → s.lane.steps ≤ 1 →
        PostsLane (.stepDone (BitVec.ofNat 16 (s.lane.stepped + 1)) s.lane.c) s t) ∧
      (t.lane.holds.watch = true → s.lane.holds.watch = false → PostsLane (.hold .watch s.lane.c) s t) ∧
      (t.lane.holds.noticeFull = true → s.lane.holds.noticeFull = false → PostsLane (.hold .noticeFull s.lane.c) s t) ∧
      (s.stopWaits = true → t.lane.lane = .stopped ∧ t.lane.holds = Holds.none) ∧
      (s.lane.lane = .stepping → s.lane.steps ≤ 1 → t.lane.lane = .stopped ∧ t.lane.holds = Holds.none) ∧
      (s.stopWaits = false → haltMatched s.commit.watches f.hits = true →
        (s.lane.lane = .running ∨ s.lane.lane = .holding ∨ (s.lane.lane = .stepping ∧ 1 < s.lane.steps)) →
        (t.lane.lane = .holding ∧ t.lane.holds.watch = true) ∨ (t.lane.lane = .stopped ∧ t.historyEnded = true)) ∧
      (s.stopWaits = false → (s.lane.lane = .running ∨ s.lane.lane = .holding ∨ (s.lane.lane = .stepping ∧ 1 < s.lane.steps)) →
        (t.historyEnded = true → t.lane.lane = .stopped ∧ t.lane.holds = Holds.none ∧ t.lane.c = s.lane.c ∧
          PostsLane (.endOfHistory t.lane.f s.lane.c) s t) ∧
        (t.historyEnded = false →
          (s.lane.stopCount = 1 → t.lane.lane = .holding ∧ t.lane.holds.stopCount = true) ∧
          (s.ntc.overflow ≠ [] → t.lane.lane = .holding ∧ t.lane.holds.noticeFull = true))) ∧
      (s.stopWaits = false → (s.lane.lane = .running ∨ (s.lane.lane = .stepping ∧ 1 < s.lane.steps)) → t.historyEnded = false →
        t.lane.lane = (if t.lane.holds.isEmpty then s.lane.lane else .holding) ∧
        (t.lane.holds.isEmpty = false → t.lane.resume.lane = s.lane.lane) ∧
        t.lane.holds.watch = haltMatched s.commit.watches f.hits ∧ t.lane.holds.stopCount = (s.lane.stopCount == 1) ∧
        t.lane.holds.anchorStarved = false ∧ (t.lane.holds.noticeFull = true → t.ntc.overflow ≠ []) ∧
        (t.lane.holds.stopTime = true ↔
          t.lane.holds.watch = false ∧ s.lane.stopCount ≠ 1 ∧ t.lane.holds.noticeFull = false ∧ t.stager.late = [] ∧
          ∃ x tg, s.lane.pend.stopTime.getD s.lane.stopTime = some x ∧ t.nextTg = some tg ∧ x.toNat < tg ∧
            (s.lane.lane = .stepping ∨ s.lane.runMode ≠ .paced ∨ x.toNat ≤ s.lane.c.toNat))) ∧
      t.lane.fault = s.lane.fault ∧ KeepsPins s t ∧ KeepsImage s t ∧ t.merge.dwell = s.merge.dwell ∧ t.cmd = s.cmd

/-- OWN_ACCESS_ERROR: the first fault puts the lane in FAULTED with its code and address, stops a formation, and restores the writes of a
commit and of an undo step, each written word and the point's last-change and last-good, newest first; a second fault leaves the lane; a failed notice write
stops the ring and discards what waits in the overflow buffer. Which own accesses fault the lane, and with which code. -/
def Obligations.OwnAccessFaults : Prop :=
  (∀ (s : State) (r : Ret) (code : FaultCode), s.resetAsserted = false → s.path.ret Ret.isError = some r →
     r.req.origin.faultCode = some code → s.lane.lane ≠ .unconfigured →
     ∃ t, exec .ownAccessError s = .next t ∧
       (s.lane.lane ≠ .faulted → t.lane.lane = .faulted ∧ t.lane.fault = code ∧ t.lane.faultAddr = r.req.addr ∧
         t.lane.holds = Holds.none ∧ t.lane.steps = 0 ∧ t.lane.acc = 0 ∧ t.img = none ∧
         (s.jrn.walk = none → t.lane.r = s.lane.r ∧ t.lane.f = s.lane.f ∧ t.lane.c = s.lane.c ∧ t.lane.group = s.lane.group) ∧
         (∀ w, s.jrn.walk = some w → w.phase = .undoing ∨ w.phase = .stepDone →
           t.lane.clock = w.snap ∧ (t.jrn.walk.map (·.phase)) = some .restoring ∧
           (∀ x ∈ w.writes, t.owesWrite .restoreWrite (s.wordAddr x.point) x.oldWord.toBytes) ∧
           (s.commit.fly = none → DirRestored w.writes s t)) ∧
         (∀ f, s.commit.fly = some f → f.phase = .forming → t.commit.fly = none ∧ t.merge.filter = none) ∧
         (∀ f, s.commit.fly = some f → f.phase = .announced ∨ f.phase = .committing ∨ f.phase = .ended →
           (t.commit.fly.map (·.phase)) = some .restoring ∧
           (∀ x ∈ f.writes, t.owesWrite .restoreWrite (s.wordAddr x.point) x.oldWord.toBytes) ∧
           (s.jrn.walk = none → DirRestored f.writes s t)) ∧
         (s.commit.fly = none → s.jrn.walk = none → t.dir = s.dir) ∧
         (∀ (i : Nat) (c : Chan), s.chanAt i = some c → ∃ c', t.chanAt i = some c' ∧
           c'.heads = c.heads.filter Place.isChecked ∧ c'.fetch = c.fetch ∧ c'.cursor = c.cursor)) ∧
       (s.lane.lane = .faulted → t.lane = s.lane ∧ t.commit = s.commit ∧ t.dir = s.dir ∧ t.front = s.front) ∧
       (r.req.origin = .noticeWrite → t.ntc.works = false ∧ t.ntc.overflow = []) ∧
       (r.req.origin ≠ .noticeWrite → s.lane.lane ≠ .faulted →
         PostsFirst { time := s.lane.r, group := s.lane.group, point := none, chan := none, arch := none,
                      body := .fault code r.req.addr } s t) ∧
       (r.req.origin = .holdRead → s.capturing = true → Answers s t 3 []) ∧
       KeepsPins s t ∧ t.regions = s.regions ∧ t.ovr = s.ovr ∧ t.stager = s.stager ∧ t.merge.dwell = s.merge.dwell) ∧
  ((∀ o : Origin, o.faultCode = some .imageRead ↔
     o = .commitRead ∨ o = .filterRead ∨ o = .holdRead ∨ o = .undoWordRead ∨ o = .imgRead) ∧
   (∀ o : Origin, o.faultCode = some .imageWrite ↔ o = .commitWrite ∨ o = .undoWrite ∨ o = .restoreWrite ∨ o = .imgWrite) ∧
   (∀ o : Origin, o.faultCode = some .journalWrite ↔
     o = .journalGroup ∨ (∃ c n, o = .journalLoose c n) ∨ o = .journalSkew) ∧
   (∀ o : Origin, o.faultCode = some .journalRead ↔ o = .entryRead) ∧
   (∀ o : Origin, o.faultCode = some .noticeWrite ↔ o = .noticeWrite) ∧
   (∀ o : Origin, o.faultCode = some .statusWrite ↔ o = .statusWrite) ∧
   (∀ (c : ChanNo) (o : Origin), (o = .fetch c ∨ o = .oldestRead ∨ o = .descRead ∨ o = .resultWrite ∨ o = .ownerWrite) →
     o.faultCode = none))

/-- COMMIT_RESTORED and UNDO_STEP_RESTORED: every restoring write answered, the flag clears and the held reads are forwarded; a failed
rewind has ended, each channel begins again as after a rewind, and REWIND_ENDED is posted with the outcome FAULTED, the groups undone and
the marks removed. (That the count of groups is that of the steps that met their boundary, without the failed one, is the model's choice,
log 54; that REWIND_ENDED is posted also where an UNCONFIGURE waits, log 61's.) -/
def Obligations.RestorationsEnd : Prop :=
  (∀ s : State, s.resetAsserted = false → s.draining = false → s.restoringFlight = true → s.restored = true →
    ∃ t, exec .commitRestored s = .next t ∧ t.commit = { s.commit with flag := false, fly := none } ∧ t.path.held = [] ∧
      t.path.fwd = s.path.fwd ++ s.path.held ∧ t.path.outst = s.path.outst ∧ t.path.answers = s.path.answers ∧
      t.front = s.front ∧ t.merge = s.merge ∧ t.stager = s.stager ∧ t.jrn = s.jrn ∧ t.lane = s.lane ∧ KeepsRest s t ∧
      KeepsNotices s t) ∧
  (∀ (s : State) (w : Walk), s.resetAsserted = false → s.draining = false → s.walkIn .restoring = some w →
    s.restored = true → s.lane.lane = .faulted →
    ∃ t, exec .undoStepRestored s = .next t ∧ t.commit = { s.commit with flag := false } ∧ t.path.held = [] ∧
      t.path.fwd = s.path.fwd ++ s.path.held ∧ t.path.outst = s.path.outst ∧ t.path.answers = s.path.answers ∧
      t.jrn = { s.jrn with walk := none } ∧
      (∀ (i : Nat) (c : Chan), s.chanAt i = some c →
        (t.chanAt i).map Chan.lessState = some { c with lagging := false, expSeq := none, lastTs := none, lastCt := none,
                                                        floor := s.lane.f, st := .empty }) ∧
      PostsLane (.rewindEnded .faulted w.back (BitVec.ofNat 24 w.groups) (BitVec.ofNat 8 w.removed) s.lane.f s.lane.c) s t ∧
      t.front.offsets = s.front.offsets ∧ t.stager = s.stager ∧ t.merge.dwell = s.merge.dwell ∧ t.lane.lane = .faulted ∧
      t.lane.c = s.lane.c ∧ KeepsRest s t)

/-! ## Journal, marks and rewind -/

/-- REWIND_START: once every entry handed in has been placed, the late group and the heads are discarded, the fetch positions go to the
cursors, the marks at the head or above it leave as R138 states, the lane goes REWINDING and the first step is announced. Where the head
is at its end the rewind ends at once: the channels begin again, C takes the target's C, or R for a STEP_BACK, and REWIND_ENDED is posted.
The command is answered STARTED, a REWIND with the target's position, a STEP_BACK with the walk's end position. The walk ends at the
position the command named, or at the oldest where entries placed while the start waited have overwritten it, and C takes R where the
target's C lies below R (the model's deductions, log 13). That a lane which runs again while the start waits rewinds as any other is the model's choice, log
44. In a lane that has gone FAULTED the command is refused: the model's deduction from R181's judging again of a command that waited,
which names no REWIND (log 57). -/
def Obligations.RewindStarts : Prop :=
  ∀ (s : State) (w : Walk) (e : Pos), s.resetAsserted = false → s.draining = false → s.cmd.phase = .starting w →
    s.jrn.inq = [] → s.jrn.wrapRead = none →
    e = (if s.jrn.dist s.jrn.head < s.jrn.dist w.endPos then s.jrn.oldest else w.endPos) →
    (s.lane.lane = .faulted → ∃ t, exec .rewindStart s = .next t ∧ Answers s t 3 [] ∧ t.lane = s.lane ∧ t.jrn = s.jrn ∧
      t.front = s.front ∧ t.stager = s.stager ∧ t.commit = s.commit ∧ KeepsImage s t ∧ KeepsPins s t) ∧
    (s.lane.lane ≠ .faulted → w.stop = false →
      ∃ t, exec .rewindStart s = .next t ∧
        (w.back = false → Answers s t 2 (leBytes 1 w.toRemove ++ [0, 0, 0] ++ leBytes 4 w.endPos.toNat)) ∧
        (w.back = true → Answers s t 2 (leBytes 2 w.toRemove ++ [0, 0] ++ leBytes 4 e.toNat)) ∧
        t.merge.starve = 0 ∧ t.merge.dwell = s.merge.dwell ∧ t.lane.r = s.lane.r ∧ t.lane.f = s.lane.f ∧
        t.lane.group = s.lane.group ∧ t.lane.holds = Holds.none ∧ t.lane.steps = 0 ∧ t.lane.acc = 0 ∧
        t.stager = { cur := s.stager.cur, late := [] } ∧
        (∀ c ∈ s.front.chans, ∀ n p, Place.inflight n p ∈ c.heads →
          { serial := n, chan := some c.phys } ∈ t.front.discarded) ∧
        (∀ (i : Nat) (c : Chan), s.chanAt i = some c → ∃ d, t.chanAt i = some d ∧ d.heads = [] ∧ d.fetch = c.cursor) ∧
        MarksTaken w.back w.toRemove s.jrn.head s.jrn.oldest s.jrn.marks t.jrn.marks ∧
        (s.jrn.head ≠ e → t.lane.lane = .rewinding ∧ t.lane.c = s.lane.c ∧ t.jrn.head = s.jrn.head ∧
          t.jrn.oldest = s.jrn.oldest ∧
          (t.jrn.walk.map fun v => (v.phase, v.endPos, v.groups, v.removed)) =
            some (.announced, e, 0, s.jrn.marks.length - t.jrn.marks.length) ∧
          (∀ (i : Nat) (c : Chan), s.chanAt i = some c →
            (t.chanAt i).map Chan.lessState = some { c with heads := [], fetch := c.cursor, st := .empty, lagging := false })) ∧
        (s.jrn.head = e → t.lane.lane = .stopped ∧ t.jrn.walk = none ∧ w.endsAt s.lane.r t.lane.c ∧
          t.lane.pend.skew = List.replicate 16 none ∧
          RewindOver w .complete 0 (s.jrn.marks.length - t.jrn.marks.length) Chan.cursor s t) ∧
        t.commit = s.commit ∧ KeepsImage s t ∧ KeepsPins s t)

/-- UNDO_STEP_BEGIN: with every window read forwarded answered, the flag is set and the newest held entry is read; the clock values at
the step's start are kept. UNDO_STEP_BOUNDARY: the flag clears, held reads are forwarded, pending pace, stop time and stop count transfer
and the values SET_CHANNEL left pending are taken, CHANNEL_REJOINED posted for a LAGGING channel they make an anchor;
then the next step is announced, or the rewind ends COMPLETE at its end position, C taking the target's C, or R for a STEP_BACK (and R
where the target's C lies below it, the model's deduction, log 13), or CUT_SHORT where a STOP waits. A rewind that ends begins its channels again, transfers the pending skew offsets, and posts REWIND_ENDED
with the groups undone and the marks removed. An UNCONFIGURE that waits abandons a walk that is not at its end, also where a STOP waits
beside it (the model's choice, log 58); one that is at its end ends COMPLETE (the model's choice, log 21). -/
def Obligations.UndoStepBeginsAndEnds : Prop :=
  (∀ (s : State) (w : Walk), s.resetAsserted = false → s.draining = false → s.walkIn .announced = some w →
     s.path.windowReadsOut = false → s.capturing = false → s.waiterReady = false →
     ∃ t, exec .undoStepBegin s = .next t ∧ t.commit = { s.commit with flag := true } ∧
       t.jrn = { s.jrn with walk := some { w with phase := .undoing, undone := 0, groupStep := false, writes := [], cur := none,
                                                  reading := some s.path.nextOwn,
                                                  snap := { r := s.lane.r, f := s.lane.f, c := s.lane.c,
                                                            group := s.lane.group } } } ∧
       (∀ g, s.regions = some g → t.owesRead .entryRead (g.entryAddr (s.jrn.head - 1)) 32) ∧
       t.front = s.front ∧ t.merge = s.merge ∧ t.stager = s.stager ∧ t.lane = s.lane ∧ KeepsRest s t ∧ KeepsPath s t ∧
       KeepsNotices s t) ∧
  (∀ (s : State) (w : Walk), s.resetAsserted = false → s.draining = false → s.walkIn .stepDone = some w →
     s.path.busy Origin.isUndo = false →
     ∃ t, exec .undoStepBoundary s = .next t ∧ t.commit = { s.commit with flag := false } ∧ t.path.held = [] ∧
       t.path.fwd = s.path.fwd ++ s.path.held ∧ t.path.outst = s.path.outst ∧ t.path.answers = s.path.answers ∧
       t.lane.pace = s.lane.pend.pace.getD s.lane.pace ∧
       t.lane.stopCount = (s.lane.pend.stopCount.map (·.1)).getD s.lane.stopCount ∧
       t.lane.reload = (s.lane.pend.stopCount.map (·.2)).getD s.lane.reload ∧
       t.lane.stopTime = s.lane.pend.stopTime.getD s.lane.stopTime ∧ t.lane.pend.pace = none ∧ t.lane.pend.stopTime = none ∧
       t.lane.pend.stopCount = none ∧
       (∀ i c, s.chanAt i = some c → ∃ d, t.chanAt i = some d ∧ c.takesSet d ∧ RejoinsAnchor i c s t) ∧
       (s.jrn.head ≠ w.endPos → s.unconfigureWaits = true → t.lane.lane = s.lane.lane ∧ t.lane.c = s.lane.c ∧
         (t.jrn.walk.map (·.phase)) = some .between) ∧
       (s.jrn.head ≠ w.endPos → s.unconfigureWaits = false → w.stop = false → t.lane.lane = s.lane.lane ∧
         t.lane.c = s.lane.c ∧ t.lane.pend.skew = s.lane.pend.skew ∧
         (t.jrn.walk.map fun v => (v.phase, v.groups)) =
           some (.announced, if w.groupStep then w.groups + 1 else w.groups)) ∧
       (s.jrn.head ≠ w.endPos → s.unconfigureWaits = false → w.stop = true → t.lane.lane = .stopped ∧ t.jrn.walk = none ∧
         t.lane.c = s.lane.c ∧ t.lane.pend = Pend.empty ∧
         RewindOver w .cutShort (if w.groupStep then w.groups + 1 else w.groups) w.removed Chan.fetch s t) ∧
       (s.jrn.head = w.endPos → t.lane.lane = .stopped ∧ t.jrn.walk = none ∧ w.endsAt s.lane.r t.lane.c ∧
         t.lane.pend = Pend.empty ∧
         RewindOver w .complete (if w.groupStep then w.groups + 1 else w.groups) w.removed Chan.fetch s t) ∧
       t.merge.dwell = s.merge.dwell ∧ t.jrn.marks = s.jrn.marks ∧ KeepsRest s t)

/-- UNDO_ENTRY. Once an answer MEMERR has come that faults the lane, no further entry is undone (the model's deduction, log 37). An entry that writes no word: a GROUP_END gives back R, F and the group number, and C takes R, but after another entry it
ends the step; HELD leaves the dwell table, SUPERSEDED gives it back the item replaced, SKEW the old offset; the rest change nothing
but the head and a cursor. An entry that writes a word reads the word before it first (log 14). -/
def Obligations.WordlessEntryUndone : Prop :=
  (∀ s : State, s.faultComes = true → exec .undoEntry s = .next s) ∧
  ∀ (s : State) (w : Walk) (n : Nat) (r : Ret) (e : JEntry), s.resetAsserted = false → s.draining = false → s.faultComes = false →
    s.walkIn .undoing = some w → w.reading = some n → s.path.ret (Ret.isFor n) = some r → r.status = .ok →
    (s.path.waiting.any fun q => q.origin.isUndo) = false → w.cur = none → JEntry.decode r.data = some e →
    (e.isGroupEnd = true → w.undone ≠ 0 → ∃ t, exec .undoEntry s = .next t ∧
      t.jrn = { s.jrn with walk := some { w with phase := .stepDone, reading := none } } ∧ t.front = s.front ∧
      t.merge = s.merge ∧ t.stager = s.stager ∧ t.commit = s.commit ∧ t.lane = s.lane ∧ KeepsRest s t ∧ KeepsNotices s t) ∧
    (∀ num k tg pr pf cnt, e = .groupEnd num k tg pr pf cnt → w.undone = 0 →
      ∃ t, exec .undoEntry s = .next t ∧ EntryUndone w e s t ∧
        t.lane = { s.lane with r := pr, f := pf, c := pr, group := num } ∧ t.jrn.geCount = s.jrn.geCount - 1 ∧
        t.front = s.front ∧ t.merge = s.merge ∧ t.dir = s.dir) ∧
    (∀ ch pos p v q tm, e = .held ch pos p v q tm →
      ∃ t, exec .undoEntry s = .next t ∧ EntryUndone w e s t ∧
        t.merge = { s.merge with dwell := s.merge.dwell.filter fun d => d.point != p } ∧ t.lane = s.lane ∧
        t.front.offsets = s.front.offsets ∧ t.jrn.geCount = s.jrn.geCount ∧ t.dir = s.dir) ∧
    (∀ ch pos p h, e = .superseded ch pos p h →
      ∃ t, exec .undoEntry s = .next t ∧ EntryUndone w e s t ∧
        t.merge = { s.merge with dwell := s.merge.dwell.map fun d => if d.point = p then { d with item := h } else d } ∧
        t.lane = s.lane ∧ t.front.offsets = s.front.offsets ∧ t.jrn.geCount = s.jrn.geCount ∧ t.dir = s.dir) ∧
    (∀ set old new, e = .skew set old new →
      ∃ t, exec .undoEntry s = .next t ∧ EntryUndone w e s t ∧ t.front.offsets = s.front.offsets.set set.toNat old ∧
        t.merge = s.merge ∧ t.lane = s.lane ∧ t.jrn.geCount = s.jrn.geCount ∧ t.dir = s.dir) ∧
    ((∃ ch pos, (∃ p tm, e = .dropped ch pos p tm) ∨ (∃ p why, e = .rejected ch pos p why) ∨ e = .noPoint ch pos ∨
        e = .marker ch pos) →
      ∃ t, exec .undoEntry s = .next t ∧ EntryUndone w e s t ∧ t.merge = s.merge ∧ t.lane = s.lane ∧
        t.front.offsets = s.front.offsets ∧ t.jrn.geCount = s.jrn.geCount ∧ t.dir = s.dir) ∧
    (∀ p, e.writesPoint = some p → (writtenWord w.writes p = none ∨ e.isRelease = true) →
      ∃ t, exec .undoEntry s = .next t ∧ t.owesRead .undoWordRead (s.wordAddr p) 8 ∧
        t.jrn = { s.jrn with walk := some { w with reading := some s.path.nextOwn, cur := some e } } ∧ t.front = s.front ∧
        t.merge = s.merge ∧ t.stager = s.stager ∧ t.commit = s.commit ∧ t.lane = s.lane ∧ KeepsRest s t ∧ KeepsNotices s t)

/-- UNDO_ENTRY, an entry that writes a word: its old word is written back, and kept in the step's list with the word before, which comes
from that list or from an own read (the model's choice, log 14); APPLIED restores the directory and, for a release, the dwell entry;
CHATTER re-inserts the held item. -/
def Obligations.WordEntryUndone : Prop :=
  ∀ (s : State) (w : Walk) (n : Nat) (r : Ret) (e : JEntry) (p : PointNo) (before : PointWord), s.resetAsserted = false →
    s.draining = false → s.faultComes = false → s.walkIn .undoing = some w → w.reading = some n → s.path.ret (Ret.isFor n) = some r →
    r.status = .ok → (s.path.waiting.any fun q => q.origin.isUndo) = false →
    ((w.cur = some e ∧ before = PointWord.read r.data) ∨
      (w.cur = none ∧ JEntry.decode r.data = some e ∧ writtenWord w.writes p = some before ∧ e.isRelease = false)) →
    (∀ ch pos late unf rel oc og old lead d, e = .applied ch pos p late unf rel oc og old lead → s.dirAt p = some d →
      ∃ t, exec .undoEntry s = .next t ∧ EntryUndone w e s t ∧ t.owesWrite .undoWrite (s.wordAddr p) old.toBytes ∧
        (t.jrn.walk.map (·.writes)) = some ({ point := p, oldWord := before, newWord := old, oldChange := d.lastChange,
                                              oldGood := d.lastGood } :: w.writes) ∧
        t.dirAt p = some { d with lastChange := oc.map fun x => { time := x.1, value := old.value, chan := x.2 },
                                  lastGood := og } ∧
        (∀ x, x ≠ p → t.dirAt x = s.dirAt x) ∧ t.lane = s.lane ∧ t.front.offsets = s.front.offsets ∧
        (rel = false → t.merge = s.merge) ∧
        (∀ c, rel = true → d.lastChange = some c → findDwell s.merge.dwell p = none → s.merge.dwell.length < 64 →
          t.merge = { s.merge with dwell := s.merge.dwell ++
            [{ point := p, item := { value := before.value, quality := before.quality &&& 0x03, time := c.time,
                                     chan := c.chan, pos := pos },
               release := c.time + lead.setWidth 48 }] })) ∧
    (∀ ch pos old, e = .duplicate ch pos p old →
      ∃ t, exec .undoEntry s = .next t ∧ EntryUndone w e s t ∧ t.owesWrite .undoWrite (s.wordAddr p) old.toBytes ∧
        (t.jrn.walk.map (·.writes)) = some ({ point := p, oldWord := before, newWord := old,
                                              oldChange := (s.dirAt p).bind (·.lastChange),
                                              oldGood := (s.dirAt p).bind (·.lastGood) } :: w.writes) ∧
        t.dir = s.dir ∧ t.merge = s.merge ∧ t.lane = s.lane ∧ t.front.offsets = s.front.offsets) ∧
    (∀ ch pos old h lead, e = .chatter ch pos p old h lead →
      ∃ t, exec .undoEntry s = .next t ∧ EntryUndone w e s t ∧ t.owesWrite .undoWrite (s.wordAddr p) old.toBytes ∧
        (t.jrn.walk.map (·.writes)) = some ({ point := p, oldWord := before, newWord := old,
                                              oldChange := (s.dirAt p).bind (·.lastChange),
                                              oldGood := (s.dirAt p).bind (·.lastGood) } :: w.writes) ∧
        t.dir = s.dir ∧ t.lane = s.lane ∧ t.front.offsets = s.front.offsets ∧
        (findDwell s.merge.dwell p = none → s.merge.dwell.length < 64 →
          t.merge = { s.merge with dwell := s.merge.dwell ++ [{ point := p, item := h, release := h.time + lead.setWidth 48 }] }))

/-! ## Configuration -/

/-- CONFIGURE waits for what is in flight, and else reads the record's two lines (log 20); validation answers BAD_PARAM, and changes nothing else, or
goes on to the change of map. -/
def Obligations.ConfigureValidates : Prop :=
  (∀ (s : State) (d : List Byte), s.command 1 = some d → taken 1 s.lane.lane = true →
    ∃ t, exec .configure s = .next t ∧
      (s.inFlight = true → t.cmd = { s.cmd with phase := .waiting .configure }) ∧
      (s.inFlight = false → t.cmd = { s.cmd with phase := .validating [] [] 0 } ∧ t.owesRead (.recordRead 0) s.cbBase 64 ∧
        t.owesRead (.recordRead 1) (s.cbBase + 64) 64) ∧
      KeepsHistory s t ∧ t.lane = s.lane ∧ KeepsImage s t ∧ KeepsPins s t ∧ KeepsPath s t ∧ KeepsNotices s t) ∧
  (∀ (s : State) (recs : List (Nat × Option (List Byte))) (ents : List (ChanNo × Option (List Byte))), s.resetAsserted = false →
    s.cmd.phase = .validating recs ents ents.length → recs.length = 2 →
    ∃ t, exec .configureValidation s = .next t ∧
      (∀ x, s.validate recs ents = .inl x → Answers s t 5 (leBytes 1 x.index ++ leBytes 1 x.chan ++ leBytes 1 x.cause ++
        leBytes 1 x.region)) ∧
      (∀ c, s.validate recs ents = .inr c → t.cmd = { s.cmd with phase := .mapChange c }) ∧
      KeepsHistory s t ∧ t.lane = s.lane ∧ KeepsImage s t ∧ KeepsPins s t ∧ KeepsPath s t ∧ KeepsNotices s t)

/-- A configuration that validation passes: every field in its range, every region aligned, below 2^40, and clear of the control block and
of every other region. One that it does not pass reports its first failing check: the fields in record order, the skew offsets, the
entries in ascending order, then bounds and overlap of each region with those before it; each with its field's index, the channel or
0xFF, the cause (1 VALUE, 2 ALIGNMENT, 3 BOUNDS, 4 OVERLAP, 5 MEMORY) and the region overlapped. (Which field a failed read of a line
names is log 20's choice.) -/
def Obligations.ValidatedConfiguration : Prop :=
  ((∀ (l : List (Option CheckFailure)) (x : CheckFailure),
      firstFailure l = some x ↔ ∃ a b, l = a ++ some x :: b ∧ ∀ y ∈ a, y = none) ∧
    (∀ (s : State) (recs : List (Nat × Option (List Byte))) (ents : List (ChanNo × Option (List Byte))),
      (lineRead recs 0 = none → s.validate recs ents = .inl { index := 1, chan := 0xFF, cause := 5, region := 0 }) ∧
      (∀ l0 l1 c x, lineRead recs 0 = some l0 → lineRead recs 1 = some l1 → c = CfgRec.parse (l0 ++ l1) →
        (s.validate recs ents = .inl x ↔ firstFailure (c.checkFields ++ c.checkSkews ++ (sortEnts ents).flatMap entryFailures ++
          checkSpans [s.cbSpan] (c.spans (readEnts (sortEnts ents)))) = some x))) ∧
    (∀ c : CfgRec, c.checkFields.map (Option.map fun x => (x.index, x.chan, x.cause, x.region)) =
      [if c.pwBase % 64 = 0 then none else some (1, 0xFF, 2, 0), if c.awBase % 64 = 0 then none else some (2, 0xFF, 2, 0),
       if 1 ≤ c.points ∧ c.points ≤ 16384 then none else some (3, 0xFF, 1, 0),
       if c.statusPoints ≤ c.points then none else some (4, 0xFF, 1, 0),
       if 12 ≤ c.jExp ∧ c.jExp ≤ 22 then none else some (5, 0xFF, 1, 0),
       if 6 ≤ c.nExp ∧ c.nExp ≤ 12 then none else some (6, 0xFF, 1, 0),
       if c.imageMode = 1 ∨ c.imageMode = 2 then none else some (7, 0xFF, 1, 0),
       if c.policy = 1 ∨ c.policy = 2 then none else some (8, 0xFF, 1, 0),
       if c.jBase % 64 = 0 then none else some (9, 0xFF, 2, 0), if c.nBase % 64 = 0 then none else some (10, 0xFF, 2, 0),
       if c.start < 2 ^ 48 then none else some (11, 0xFF, 1, 0), if c.quantum = 0 then some (12, 0xFF, 1, 0) else none]) ∧
    (∀ (c : CfgRec) (n : Nat) (v : Word32), c.skews[n]? = some v → c.checkSkews[n]? =
      some (if v = 0x80000000 then some { index := 18 + n, chan := 0xFF, cause := 1, region := 0 } else none)) ∧
    (∀ (phys : ChanNo) (e : ChanEnt), (e.check phys).map (Option.map fun x => (x.index, x.chan, x.cause, x.region)) =
      [if e.base % 64 = 0 then none else some (1, phys.toNat, 2, 0),
       if 4 ≤ e.k ∧ e.k ≤ 20 then none else some (2, phys.toNat, 1, 0),
       if e.skewSet ≤ 15 then none else some (3, phys.toNat, 1, 0),
       if e.late = 1 ∨ e.late = 2 then none else some (4, phys.toNat, 1, 0),
       if (e.fill - e.start).toNat ≤ 2 ^ e.k then none else some (7, phys.toNat, 1, 0)]) ∧
    (∀ (before : List Span) (r : Span), r.check before =
      if 2 ^ 40 < r.base + r.size then some { index := r.index, chan := r.chan, cause := 3, region := 0 }
      else (before.find? fun b => r.base < b.base + b.size && b.base < r.base + r.size).map fun b =>
        { index := r.index, chan := r.chan, cause := 4, region := b.code })) ∧
  ∀ (s : State) (recs : List (Nat × Option (List Byte))) (ents : List (ChanNo × Option (List Byte))) (c : Cfg),
    s.validate recs ents = .inr c →
    c.record.pwBase % 64 = 0 ∧ c.record.awBase % 64 = 0 ∧ c.record.jBase % 64 = 0 ∧ c.record.nBase % 64 = 0 ∧
    1 ≤ c.record.points ∧ c.record.points ≤ 16384 ∧ c.record.statusPoints ≤ c.record.points ∧ 12 ≤ c.record.jExp ∧
    c.record.jExp ≤ 22 ∧ 6 ≤ c.record.nExp ∧ c.record.nExp ≤ 12 ∧ (c.record.imageMode = 1 ∨ c.record.imageMode = 2) ∧
    (c.record.policy = 1 ∨ c.record.policy = 2) ∧ c.record.start < 2 ^ 48 ∧ 1 ≤ c.record.quantum ∧
    (∀ v ∈ c.record.skews, v ≠ 0x80000000) ∧
    (∀ x ∈ c.ents, x.2.base % 64 = 0 ∧ 4 ≤ x.2.k ∧ x.2.k ≤ 20 ∧ x.2.skewSet ≤ 15 ∧ (x.2.late = 1 ∨ x.2.late = 2) ∧
      (x.2.fill - x.2.start).toNat ≤ 2 ^ x.2.k) ∧
    (∀ r ∈ c.record.spans c.ents, r.base + r.size ≤ 2 ^ 40) ∧
    (s.cbSpan :: c.record.spans c.ents).Pairwise (fun a b => ¬(a.base < b.base + b.size ∧ b.base < a.base + a.size))

/-- REGION_MAP_CHANGE, with the forward stream and the held reads empty and every window read answered, though a refused or captured write's
response may not have been sent (the model's choice, log 45): the map is latched, every block takes its CONFIGURE values, the lane goes CONFIGURING, CONFIGURE is answered
STARTED, and the pass reads or clears the word of point 0. -/
def Obligations.MapChanges : Prop :=
  ∀ (s : State) (c : Cfg), s.resetAsserted = false → s.cmd.phase = .mapChange c → s.path.fwd = [] → s.path.held = [] →
    s.path.windowReadIds = [] → 1 ≤ c.record.points →
    ∃ t, exec .regionMapChange s = .next t ∧
      t.regions = some { pwBase := c.record.pwBase, awBase := c.record.awBase, points := c.record.points,
                         statusPoints := c.record.statusPoints, jBase := c.record.jBase, jExp := c.record.jExp,
                         nBase := c.record.nBase, nExp := c.record.nExp } ∧
      t.dir.length = c.record.points ∧
      (∀ p : PointNo, p.toNat < c.record.points → t.dirAt p =
        some { kind := if p.toNat < c.record.statusPoints then .status else .analog, sel := .live, lastGood := none,
               lastChange := none, dwell := 0, policy := if c.record.policy = 2 then .once else .pin }) ∧
      t.ovr = [] ∧ t.front.offsets = c.record.skews ∧ t.front.chans.length = c.ents.length ∧
      (∀ (i : Nat) (x : ChanNo × ChanEnt), c.ents[i]? = some x → ∃ ch, t.chanAt i = some ch ∧ ch.phys = x.1 ∧
        ch.base = x.2.base ∧ ch.k = x.2.k ∧ ch.retain = x.2.start ∧ ch.cursor = x.2.start ∧ ch.fetch = x.2.start ∧
        ch.fill = x.2.fill ∧ ch.closed = x.2.closed ∧ ch.anchor = x.2.anchor ∧ ch.heads = [] ∧ ch.lastTs = none ∧
        ch.lastCt = none ∧ ch.expSeq = none ∧ ch.floor = BitVec.ofNat 48 c.record.start ∧ ch.rejected = 0 ∧
        ch.lateCount = 0 ∧ ch.lagging = false) ∧
      t.lane.lane = .configuring ∧ t.lane.c = BitVec.ofNat 48 c.record.start ∧ t.lane.r = BitVec.ofNat 48 c.record.start ∧
      t.lane.f = BitVec.ofNat 48 c.record.start ∧ t.lane.group = 0 ∧ t.lane.pace = 1024 ∧ t.lane.stopTime = none ∧
      t.lane.stopCount = 0 ∧ t.lane.fault = .none ∧ t.merge.dwell = [] ∧ t.merge.quantum = c.record.quantum ∧
      t.merge.window = c.record.window ∧ t.merge.limit = c.record.limit ∧ t.stager = { cur := [], late := [] } ∧
      t.commit.flag = false ∧ t.commit.watches = List.replicate 32 none ∧ t.jrn.head = 0 ∧ t.jrn.oldest = 0 ∧
      t.jrn.marks = [] ∧ t.ntc.produced = 0 ∧ t.ntc.consumed = 0 ∧ t.ntc.discarded = 0 ∧ t.ntc.overflow = [] ∧
      t.ntc.mask = c.record.mask ∧ t.ntc.lineEn = c.record.lineEn ∧ t.ntc.works = true ∧ Answers s t 2 [] ∧
      (c.record.imageMode = 1 → t.owesRead .imgRead c.record.pwBase 8) ∧
      (c.record.imageMode = 2 → t.owesWrite .imgWrite c.record.pwBase
        [0, 0, 0, 0, 1, 0, if 0 < c.record.statusPoints then 0 else 0x80, 0]) ∧
      KeepsPins s t

/-- IMAGE_PASS_WORD: a KEEP read seeds the last-good value (before the write that cleans the word is answered: the model's choice, log 50),
and a word with OVERRIDDEN or PRESENTED is written back without them; otherwise the pass goes on to the next word, which KEEP reads and
CLEAR writes with value 0, quality INVALID alone, count 0, source channel 0 with the point's kind, and phase 0; after the last the lane is STOPPED, CONFIGURED is posted and the held reads are forwarded. -/
def Obligations.ImagePass : Prop :=
  ∀ (s : State) (r : Ret) (i : ImgPass) (d : DirEntry) (w : PointWord), s.resetAsserted = false → s.draining = false →
    s.path.ret Ret.isPass = some r → s.img = some i → i.point < s.points → s.points ≤ 16384 →
    s.dirAt (BitVec.ofNat 16 i.point) = some d → w = PointWord.read r.data →
    ∃ t, exec .imagePassWord s = .next t ∧
      (r.req.origin = .imgRead →
        t.dirAt (BitVec.ofNat 16 i.point) =
          some (if w.quality &&& 0x03 = 0 ∧ (d.kind = .analog ∨ w.value.toNat < 4) then { d with lastGood := some w.value }
                else d) ∧
        (w.quality &&& 0xC0 ≠ 0 → t.img = some { i with cleaning := true } ∧ t.lane = s.lane ∧ t.path.held = s.path.held ∧
          t.owesWrite .imgWrite (s.wordAddr (BitVec.ofNat 16 i.point))
            { w with quality := w.quality &&& 0x3F }.toBytes)) ∧
      (r.req.origin = .imgWrite → t.dir = s.dir) ∧
      ((r.req.origin = .imgWrite ∨ w.quality &&& 0xC0 = 0) →
        (i.point + 1 < s.points → t.img = some { i with point := i.point + 1, cleaning := false } ∧ t.lane = s.lane ∧
          t.path.held = s.path.held ∧
          (i.mode = .keep → t.owesRead .imgRead (s.wordAddr (BitVec.ofNat 16 (i.point + 1))) 8) ∧
          (i.mode = .clear → ∀ e, s.dirAt (BitVec.ofNat 16 (i.point + 1)) = some e →
            t.owesWrite .imgWrite (s.wordAddr (BitVec.ofNat 16 (i.point + 1)))
              ({ value := 0, quality := 0x01, count := 0, source := sourceOf 0 e.kind, phase := 0 } : PointWord).toBytes)) ∧
        (s.points ≤ i.point + 1 → t.img = none ∧ t.lane.lane = .stopped ∧ t.path.held = [] ∧
          t.path.fwd = s.path.fwd ++ s.path.held ∧
          PostsFirst { time := s.lane.r, group := s.lane.group, point := none, chan := none, arch := none,
                       body := .configured s.merge.start (BitVec.ofNat 16 s.points) (BitVec.ofNat 16 s.statusPoints)
                         (BitVec.ofNat 8 s.front.chans.length) } s t)) ∧
      (∀ x, x ≠ BitVec.ofNat 16 i.point → t.dirAt x = s.dirAt x) ∧ t.regions = s.regions ∧ t.ovr = s.ovr ∧
      t.stager = s.stager ∧ t.commit = s.commit ∧ t.jrn = s.jrn ∧ t.cmd = s.cmd ∧ s.lane.keepsClock t.lane ∧ KeepsPins s t

/-- UNCONFIGURE: answered at once in UNCONFIGURED; it waits for a group or an undo step in flight; else it is answered DONE, the owner word
written, a rewind or a CONFIGURING pass abandoned, and its effect waits for own traffic (how: log 21). UNCONFIGURE_EFFECT, with the own-write
queue drained and the windows' requests answered (how: log 29): every block takes its UNCONFIGURE values and the command ring stays. (The
values the spec does not give, as the starvation limit's 0: log 35.) -/
def Obligations.UnconfigureTakesEffect : Prop :=
  (∀ (s : State) (d : List Byte), s.command 2 = some d →
    (s.lane.lane = .unconfigured → ∃ t, exec .unconfigure s = .next t ∧ Answers s t 1 [] ∧ KeepsHistory s t ∧
      t.lane = s.lane ∧ KeepsImage s t ∧ KeepsPins s t) ∧
    (s.lane.lane = .configuring → ∃ t, exec .unconfigure s = .next t ∧ Answers s t 1 [] ∧ t.cmd.phase = .draining ∧
      t.img = none ∧ t.path.held = [] ∧ t.path.fwd = s.path.fwd ++ s.path.held.map (fun f => { f with cls := .raw }) ∧
      t.lane = s.lane ∧ t.dir = s.dir ∧ t.ovr = s.ovr ∧ t.regions = s.regions ∧ KeepsPins s t) ∧
    (s.lane.lane ≠ .unconfigured → s.lane.lane ≠ .configuring →
      ((s.commit.fly.isSome = true ∨ s.stepInFlight = true) → ∃ t, exec .unconfigure s = .next t ∧
        t.cmd = { s.cmd with phase := .waiting .unconfigure } ∧ KeepsHistory s t ∧ t.lane = s.lane ∧ KeepsImage s t ∧
        KeepsPins s t ∧ KeepsPath s t ∧ KeepsNotices s t) ∧
      (s.commit.fly = none → s.stepInFlight = false → ∃ t, exec .unconfigure s = .next t ∧ Answers s t 1 [] ∧
        t.cmd.phase = .draining ∧ t.jrn.walk = none ∧ t.front = s.front ∧ t.merge = s.merge ∧ t.stager = s.stager ∧
        t.commit = s.commit ∧ t.lane = s.lane ∧ KeepsImage s t ∧ KeepsPins s t ∧ KeepsPath s t))) ∧
  (∀ s : State, s.resetAsserted = false → s.draining = true → s.path.ownQ = [] → s.path.waiting = [] → s.path.fwd = [] →
    s.path.held = [] → s.path.windowReadIds = [] → (s.path.answers.any fun a => a.win || a.resp.isSome) = false →
    ∃ t, exec .unconfigureEffect s = .next t ∧ t.regions = none ∧ t.dir = [] ∧ t.ovr = [] ∧ t.front.chans = [] ∧
      t.front.offsets = List.replicate 16 0 ∧ t.merge = Merge.reset ∧ t.stager = Stager.reset ∧ t.commit = Commit.reset ∧
      t.lane = Timeline.reset ∧ t.img = none ∧ t.jrn.head = 0 ∧ t.jrn.oldest = 0 ∧ t.jrn.marks = [] ∧ t.jrn.walk = none ∧
      t.ntc.produced = 0 ∧ t.ntc.consumed = 0 ∧ t.ntc.discarded = 0 ∧ t.ntc.overflow = [] ∧ t.noticeLine = false ∧
      t.cmd.n = s.cmd.n ∧
      (s.cmd.n ∉ s.cmd.pend → t.cmd.pend = s.cmd.pend ∧ t.cmd.phase = .idle) ∧
      (s.cmd.n ∈ s.cmd.pend → t.cmd.phase = .reading ∧ t.owesRead .descRead (s.slotAddr s.cmd.n) 64) ∧
      t.path.answers = s.path.answers ∧ t.path.pass = 0 ∧ KeepsPins s t)

/-! ## Lane and settings commands -/

/-- RUN and STEP: a code outside its range is BAD_PARAM, a full overflow buffer NOTICE_FULL; else the command is answered DONE with the lane
state it leaves: STOPPED at the end of history, in whatever lane state it is found, HOLDING while a reason remains, else RUNNING or
STEPPING, which a stop time already passed may hold at once. (The bytes a BAD_PARAM carries behind the index: log 19. That the lane runs on in this
event where ANCHOR_STARVED is in the set and no anchor blocks any more: log 33.) -/
def Obligations.RunAndStep : Prop :=
  (∀ (s : State) (d : List Byte), s.command 3 = some d → taken 3 s.lane.lane = true → s.lane.holdsOk → s.laggingOk →
    ∃ t, exec .run s = .next t ∧
      (RunMode.ofCode (field d 8 1) = none → Answers s t 5 [1, 0xFF, 1, 0] ∧ t.lane = s.lane) ∧
      (∀ m, RunMode.ofCode (field d 8 1) = some m → s.historyEnded = true → 48 ≤ s.ntc.overflow.length →
        Answers s t 7 [] ∧ t.lane = s.lane) ∧
      (∀ m, RunMode.ofCode (field d 8 1) = some m → (s.historyEnded = false ∨ s.ntc.overflow.length < 48) →
        Answers s t 1 [BitVec.ofNat 8 t.lane.lane.code] ∧ t.lane.runMode = m ∧
        (s.historyEnded = true → t.lane.lane = .stopped ∧ t.lane.holds = Holds.none ∧ t.lane.steps = 0 ∧ t.lane.acc = 0 ∧
          t.lane.c = s.lane.c ∧
          PostsFirst { time := s.lane.r, group := s.lane.group, point := none, chan := none, arch := none,
                       body := .endOfHistory s.lane.f s.lane.c } s t) ∧
        (s.historyEnded = false → s.lane.lane = .stopped → s.ntc.overflow ≠ [] →
          t.lane.lane = .holding ∧ t.lane.holds.noticeFull = true ∧ t.lane.resume = .running) ∧
        (s.historyEnded = false → (s.lane.lane = .stopped → s.ntc.overflow = []) → s.lane.holds.noticeFull = false →
          s.lane.holds.anchorStarved = false →
          t.lane.lane = .running ∨ (t.lane.lane = .holding ∧ t.lane.holds.stopTime = true)) ∧
        (s.historyEnded = false → s.lane.lane = .holding → s.lane.holds.noticeFull = true → t.lane.lane = .holding ∧
          t.lane.resume = .running ∧ t.lane.holds.watch = false ∧ t.lane.holds.stopTime = false ∧
          t.lane.holds.stopCount = false) ∧
        (s.historyEnded = false → s.lane.lane = .holding → s.lane.holds.noticeFull = false →
          s.lane.holds.anchorStarved = true → s.settled →
          (s.anchorBlocks = true → t.lane.lane = .holding ∧ t.lane.holds = { Holds.none with anchorStarved := true } ∧
            t.lane.resume = .running) ∧
          (s.anchorBlocks = false → t.lane.lane = .running ∨ (t.lane.lane = .holding ∧ t.lane.holds.stopTime = true)))) ∧
      s.lane.keepsClock t.lane ∧ t.stager = s.stager ∧ t.commit = s.commit ∧ t.jrn = s.jrn ∧ t.merge.dwell = s.merge.dwell ∧
      KeepsChans s t ∧ KeepsImage s t ∧ KeepsPins s t ∧ KeepsPath s t) ∧
  (∀ (s : State) (d : List Byte), s.command 4 = some d → taken 4 s.lane.lane = true → s.lane.holdsOk → s.laggingOk →
    ∃ t, exec .step s = .next t ∧
      (field d 8 2 = 0 → Answers s t 5 [1, 0xFF, 1, 0] ∧ t.lane = s.lane) ∧
      (field d 8 2 ≠ 0 → 48 ≤ s.ntc.overflow.length → Answers s t 7 [] ∧ t.lane = s.lane) ∧
      (field d 8 2 ≠ 0 → s.ntc.overflow.length < 48 → Answers s t 1 [BitVec.ofNat 8 t.lane.lane.code] ∧
        (s.historyEnded = true → t.lane.lane = .stopped ∧ t.lane.holds = Holds.none ∧ t.lane.steps = 0 ∧ t.lane.acc = 0 ∧
          t.lane.c = s.lane.c ∧
          PostsFirst { time := s.lane.r, group := s.lane.group, point := none, chan := none, arch := none,
                       body := .endOfHistory s.lane.f s.lane.c } s t) ∧
        (s.historyEnded = false → t.lane.steps = field d 8 2 ∧ t.lane.stepped = 0) ∧
        (s.historyEnded = false → s.lane.lane = .stopped → s.ntc.overflow ≠ [] →
          t.lane.lane = .holding ∧ t.lane.holds.noticeFull = true ∧ t.lane.resume = .stepping) ∧
        (s.historyEnded = false → (s.lane.lane = .stopped → s.ntc.overflow = []) → s.lane.holds.noticeFull = false →
          s.lane.holds.anchorStarved = false →
          t.lane.lane = .stepping ∨ (t.lane.lane = .holding ∧ t.lane.holds.stopTime = true)) ∧
        (s.historyEnded = false → s.lane.lane = .holding → s.lane.holds.noticeFull = true → t.lane.lane = .holding ∧
          t.lane.resume = .stepping ∧ t.lane.holds.watch = false ∧ t.lane.holds.stopTime = false ∧
          t.lane.holds.stopCount = false) ∧
        (s.historyEnded = false → s.lane.lane = .holding → s.lane.holds.noticeFull = false →
          s.lane.holds.anchorStarved = true → s.settled →
          (s.anchorBlocks = true → t.lane.lane = .holding ∧ t.lane.holds = { Holds.none with anchorStarved := true } ∧
            t.lane.resume = .stepping) ∧
          (s.anchorBlocks = false → t.lane.lane = .stepping ∨ (t.lane.lane = .holding ∧ t.lane.holds.stopTime = true)))) ∧
      s.lane.keepsClock t.lane ∧ t.stager = s.stager ∧ t.commit = s.commit ∧ t.jrn = s.jrn ∧ t.merge.dwell = s.merge.dwell ∧
      KeepsChans s t ∧ KeepsImage s t ∧ KeepsPins s t ∧ KeepsPath s t)

/-- STOP: at once where no group is in flight, waiting for the boundary else; in STOPPED it changes nothing; in REWINDING it is answered
STARTED and cuts the rewind. -/
def Obligations.StopTaken : Prop :=
  ∀ (s : State) (d : List Byte), s.command 5 = some d →
    (s.lane.lane = .rewinding → ∃ t, exec .stop s = .next t ∧
      Answers s t 2 (leBytes 1 6 ++ [0] ++ leBytes 6 s.lane.r.toNat ++ leBytes 4 s.lane.group.toNat) ∧
      t.jrn = { s.jrn with walk := s.jrn.walk.map fun w => { w with stop := true } } ∧ t.front = s.front ∧
      t.merge = s.merge ∧ t.stager = s.stager ∧ t.commit = s.commit ∧ t.lane = s.lane ∧ KeepsImage s t ∧ KeepsPins s t ∧
      KeepsPath s t ∧ KeepsNotices s t) ∧
    (s.lane.lane = .stopped → ∃ t, exec .stop s = .next t ∧
      Answers s t 1 (leBytes 1 2 ++ [0] ++ leBytes 6 s.lane.r.toNat ++ leBytes 4 s.lane.group.toNat) ∧ KeepsHistory s t ∧
      t.lane = s.lane ∧ KeepsImage s t ∧ KeepsPins s t ∧ KeepsPath s t ∧ KeepsNotices s t) ∧
    ((s.lane.lane = .running ∨ s.lane.lane = .stepping ∨ s.lane.lane = .holding) →
      (s.commit.fly = none → ∃ t, exec .stop s = .next t ∧
        Answers s t 1 (leBytes 1 2 ++ [0] ++ leBytes 6 s.lane.r.toNat ++ leBytes 4 s.lane.group.toNat) ∧
        t.lane.lane = .stopped ∧ t.lane.holds = Holds.none ∧ t.lane.steps = 0 ∧ t.lane.acc = 0 ∧ t.lane.c = s.lane.c ∧
        s.lane.keepsClock t.lane ∧ t.stager = s.stager ∧ t.commit = s.commit ∧ t.jrn = s.jrn ∧
        t.merge.dwell = s.merge.dwell ∧ KeepsChans s t ∧ KeepsImage s t ∧ KeepsPins s t ∧ KeepsPath s t) ∧
      (s.commit.fly.isSome = true → ∃ t, exec .stop s = .next t ∧ t.cmd = { s.cmd with phase := .waiting .stop } ∧
        KeepsHistory s t ∧ t.lane = s.lane ∧ KeepsImage s t ∧ KeepsPins s t ∧ KeepsPath s t ∧ KeepsNotices s t))

/-- SET_PACE, SET_STOP_TIME, SET_STOP_COUNT and SET_SKEW: a value out of range is BAD_PARAM; with a group or an undo in flight the value is
pending, and else it takes effect at once; the answer says which. A stop time that takes effect stays absent or present as set, but that a
lane that runs, or that runs again as ANCHOR_STARVED leaves the set, may reach it at once: then C is raised to it, it is absent, and the
lane holds on STOP_TIME. (The cause VALUE of a BAD_PARAM: log 19. That a stop time is not met while WATCH or another reason holds the lane:
log 39.) -/
def Obligations.SettingsTaken : Prop :=
  (∀ (s : State) (d : List Byte), s.command 6 = some d → taken 6 s.lane.lane = true → ∃ t, exec .setPace s = .next t ∧
    (¬(16 ≤ field d 8 4 ∧ field d 8 4 ≤ 65536) → Answers s t 5 [1, 0xFF, 1, 0] ∧ t.lane = s.lane) ∧
    (16 ≤ field d 8 4 ∧ field d 8 4 ≤ 65536 →
      (s.inFlight = true → Answers s t 1 [1] ∧
        t.lane = { s.lane with pend := { s.lane.pend with pace := some (field d 8 4) } }) ∧
      (s.inFlight = false → Answers s t 1 [0] ∧ t.lane.pace = field d 8 4)) ∧
    s.lane.keepsClock t.lane ∧ t.commit = s.commit ∧ KeepsImage s t ∧ KeepsPins s t ∧ KeepsPath s t) ∧
  (∀ (s : State) (d : List Byte), s.command 7 = some d → taken 7 s.lane.lane = true → ∃ t, exec .setStopTime s = .next t ∧
    (field d 8 1 % 2 = 1 → 2 ^ 48 ≤ field d 16 8 → Answers s t 5 [2, 0xFF, 1, 0] ∧ t.lane = s.lane) ∧
    (∀ x, x = (if field d 8 1 % 2 = 0 then none else some (BitVec.ofNat 48 (field d 16 8))) →
      (field d 8 1 % 2 = 1 → field d 16 8 < 2 ^ 48) →
      (s.inFlight = true → Answers s t 1 [1] ∧ t.lane = { s.lane with pend := { s.lane.pend with stopTime := some x } }) ∧
      (s.inFlight = false → Answers s t 1 [0] ∧ (s.lane.lane = .stopped ∨ s.lane.lane = .rewinding → t.lane.stopTime = x) ∧
        (s.lane.lane = .holding → s.lane.holds.anchorStarved = false → t.lane.stopTime = x) ∧
        (s.lane.holdsOk → t.lane.stopTime = x ∨ ∃ y, x = some y ∧ t.lane.stopTime = none ∧ t.lane.lane = .holding ∧
          t.lane.holds.stopTime = true ∧ t.lane.c.toNat = max s.lane.c.toNat y.toNat) ∧
        (∀ y tg, (s.lane.lane = .running ∨ s.lane.lane = .stepping) → s.lane.holdsOk → s.settled → s.historyEnded = false →
          (∀ n : Nat, (s.lane.pend.skew[n]?).join = none) → s.stager.late = [] → x = some y → s.nextTg = some tg →
          ((y.toNat < tg ∧ (s.lane.lane = .stepping ∨ s.lane.runMode ≠ .paced ∨ y.toNat ≤ s.lane.c.toNat)) →
            t.lane.lane = .holding ∧ t.lane.stopTime = none) ∧
          (¬(y.toNat < tg ∧ (s.lane.lane = .stepping ∨ s.lane.runMode ≠ .paced ∨ y.toNat ≤ s.lane.c.toNat)) →
            t.lane.lane = s.lane.lane ∧ t.lane.stopTime = x)))) ∧
    s.lane.keepsClock t.lane ∧ t.commit = s.commit ∧ KeepsImage s t ∧ KeepsPins s t ∧ KeepsPath s t) ∧
  (∀ (s : State) (d : List Byte), s.command 8 = some d → taken 8 s.lane.lane = true → ∃ t, exec .setStopCount s = .next t ∧
    (s.inFlight = true → Answers s t 1 [1] ∧
      t.lane = { s.lane with pend := { s.lane.pend with
        stopCount := some (BitVec.ofNat 32 (field d 8 4), BitVec.ofNat 32 (field d 12 4)) } }) ∧
    (s.inFlight = false → Answers s t 1 [0] ∧ t.lane.stopCount = BitVec.ofNat 32 (field d 8 4) ∧
      t.lane.reload = BitVec.ofNat 32 (field d 12 4)) ∧
    s.lane.keepsClock t.lane ∧ t.commit = s.commit ∧ KeepsImage s t ∧ KeepsPins s t ∧ KeepsPath s t) ∧
  (∀ (s : State) (d : List Byte), s.command 9 = some d → taken 9 s.lane.lane = true → s.sizesOk →
    ∃ t, exec .setSkew s = .next t ∧
    (15 < field d 8 1 → Answers s t 5 [1, 0xFF, 1, 0] ∧ t.lane = s.lane) ∧
    (field d 8 1 ≤ 15 → field d 12 4 = 0x80000000 → Answers s t 5 [2, 0xFF, 1, 0] ∧ t.lane = s.lane) ∧
    (field d 8 1 ≤ 15 → field d 12 4 ≠ 0x80000000 →
      (s.inFlight = true → Answers s t 1 [1] ∧ t.front = s.front ∧
        t.lane = { s.lane with pend := { s.lane.pend with
          skew := s.lane.pend.skew.set (field d 8 1) (some (BitVec.ofNat 32 (field d 12 4))) } }) ∧
      (s.inFlight = false → Answers s t 1 [0] ∧ t.front.offsets[field d 8 1]? = some (BitVec.ofNat 32 (field d 12 4)))) ∧
    s.lane.keepsClock t.lane ∧ t.commit = s.commit ∧ KeepsImage s t ∧ KeepsPins s t ∧ KeepsPath s t)

/-- SET_CHANNEL: a channel that is not enabled or an unknown policy is BAD_PARAM (its bytes behind the index: the model's choice, log 19);
with a group or an undo in flight the values are pending, and else they are applied, an anchor flag taking a LAGGING channel out of
LAGGING. -/
def Obligations.ChannelSettingTaken : Prop :=
  ∀ (s : State) (d : List Byte), s.command 10 = some d → taken 10 s.lane.lane = true →
    ∃ t, exec .setChannel s = .next t ∧
      ((63 < field d 8 1 ∨ s.logical (BitVec.ofNat 6 (field d 8 1)) = none) →
        Answers s t 5 [1, 0xFF, 1, 0] ∧ t.front = s.front ∧ t.lane = s.lane) ∧
      (∀ i, field d 8 1 ≤ 63 → s.logical (BitVec.ofNat 6 (field d 8 1)) = some i →
        (LatePolicy.ofCode (field d 9 1) = none → Answers s t 5 [2, 0xFF, 1, 0] ∧ t.front = s.front ∧ t.lane = s.lane) ∧
        (∀ lp c, LatePolicy.ofCode (field d 9 1) = some lp → s.chanAt i = some c →
          (s.inFlight = true → Answers s t 1 [1] ∧
            t.chanAt i = some { c with pendSet := some (lp, field d 10 1 % 2 == 1) } ∧ t.lane = s.lane) ∧
          (s.inFlight = false → Answers s t 1 [0] ∧ ∃ c', t.chanAt i = some c' ∧ c'.late = lp ∧
            c'.anchor = (field d 10 1 % 2 == 1) ∧ c'.pendSet = none ∧ (c'.anchor = true → c'.lagging = false)) ∧
          KeepsOtherChans i s t)) ∧
      s.lane.keepsClock t.lane ∧ t.stager = s.stager ∧ t.commit = s.commit ∧ t.jrn = s.jrn ∧ KeepsImage s t ∧
      KeepsPins s t ∧ KeepsPath s t

/-! ## Mark and rewind commands -/

/-- MARK with no group in flight: a new mark with the head, R, F, C and group number goes on top; with 8 marks the bottom one is lost, with
MARK_LOST, unless the overflow buffer is full, when MARK is answered NOTICE_FULL. With a group in flight it waits. -/
def Obligations.MarkPushed : Prop :=
  ∀ (s : State) (d : List Byte) (m : Mark), s.command 11 = some d → taken 11 s.lane.lane = true →
    m = { pos := s.jrn.head, r := s.lane.r, f := s.lane.f, c := s.lane.c, group := s.lane.group } →
    ∃ t, exec .mark s = .next t ∧
      (8 ≤ s.jrn.marks.length → 48 ≤ s.ntc.overflow.length → Answers s t 7 [] ∧ t.jrn = s.jrn) ∧
      ((s.jrn.marks.length < 8 ∨ s.ntc.overflow.length < 48) → s.commit.fly.isSome = true →
        t.cmd = { s.cmd with phase := .waiting .mark } ∧ t.jrn = s.jrn) ∧
      (s.jrn.marks.length < 8 → s.commit.fly = none → t.jrn = { s.jrn with marks := s.jrn.marks ++ [m] } ∧
        Answers s t 1 (leBytes 1 (s.jrn.marks.length + 1) ++ [0] ++ leBytes 6 s.lane.r.toNat ++ leBytes 4 s.lane.group.toNat ++
          leBytes 4 s.jrn.head.toNat)) ∧
      (∀ b more, s.jrn.marks = b :: more → s.jrn.marks.length = 8 → s.ntc.overflow.length < 48 → s.commit.fly = none →
        t.jrn = { s.jrn with marks := more ++ [m] } ∧
        PostsFirst { time := s.lane.r, group := s.lane.group, point := none, chan := none, arch := none,
                     body := .markLost true b.r b.group b.pos } s t) ∧
      t.front = s.front ∧ t.merge = s.merge ∧ t.stager = s.stager ∧ t.commit = s.commit ∧ t.lane = s.lane ∧
      KeepsImage s t ∧ KeepsPins s t ∧ KeepsPath s t

/-- DROP_MARK removes the top mark and undoes nothing (R128). -/
def Obligations.MarkDropped : Prop :=
  ∀ (s : State) (d : List Byte), s.command 12 = some d →
    ((s.lane.lane = .stopped ∨ s.lane.lane = .running ∨ s.lane.lane = .stepping ∨ s.lane.lane = .holding ∨
        s.lane.lane = .rewinding) →
      ∃ t, exec .dropMark s = .next t ∧
        (s.jrn.marks = [] → Answers s t 6 [] ∧ t.jrn = s.jrn) ∧
        (s.jrn.marks ≠ [] → Answers s t 1 (leBytes 1 (s.jrn.marks.length - 1)) ∧ t.jrn.marks = s.jrn.marks.dropLast ∧
          t.jrn.head = s.jrn.head ∧ t.jrn.oldest = s.jrn.oldest ∧
          (t.jrn.walk.map fun w => (w.endPos, w.targetC)) = s.jrn.walk.map fun w => (w.endPos, w.targetC)) ∧
        t.front = s.front ∧ t.merge = s.merge ∧ t.stager = s.stager ∧ t.commit = s.commit ∧ t.lane = s.lane ∧
        KeepsImage s t ∧ KeepsPins s t ∧ KeepsPath s t ∧ KeepsNotices s t) ∧
    ((s.lane.lane = .unconfigured ∨ s.lane.lane = .configuring ∨ s.lane.lane = .faulted) →
      ∃ t, exec .dropMark s = .next t ∧ Answers s t 3 [] ∧ KeepsHistory s t ∧ t.lane = s.lane ∧ KeepsImage s t ∧
        KeepsPins s t ∧ KeepsPath s t ∧ KeepsNotices s t)

/-- REWIND and STEP_BACK: a depth or count of 0 is BAD_PARAM; more than the marks, or than the complete groups, held is OUT_OF_RANGE; a full
overflow buffer NOTICE_FULL; else the rewind starts, with the d-th mark from the top, or the group's start, as its end position. (The
bytes of a BAD_PARAM behind the index are the model's choice, log 19, and so is the list that gives a STEP_BACK its end position, log
13.) -/
def Obligations.RewindTaken : Prop :=
  (∀ (s : State) (d : List Byte), s.command 13 = some d → taken 13 s.lane.lane = true →
    ∃ t, exec .rewind s = .next t ∧
      (field d 8 1 = 0 → Answers s t 5 [1, 0xFF, 1, 0]) ∧
      (s.jrn.marks.length < field d 8 1 → Answers s t 6 []) ∧
      (0 < field d 8 1 → field d 8 1 ≤ s.jrn.marks.length → 48 ≤ s.ntc.overflow.length → Answers s t 7 []) ∧
      (∀ m, 0 < field d 8 1 → field d 8 1 ≤ s.jrn.marks.length → s.ntc.overflow.length < 48 →
        s.jrn.marks[s.jrn.marks.length - field d 8 1]? = some m →
        ∃ w, t.cmd = { s.cmd with phase := .starting w } ∧ w.back = false ∧ w.toRemove = field d 8 1 ∧ w.endPos = m.pos ∧
          w.targetC = some m.c ∧ w.groups = 0 ∧ w.removed = 0 ∧ w.stop = false) ∧
      KeepsHistory s t ∧ t.lane = s.lane ∧ KeepsImage s t ∧ KeepsPins s t ∧ KeepsPath s t ∧ KeepsNotices s t) ∧
  (∀ (s : State) (d : List Byte), s.command 14 = some d → taken 14 s.lane.lane = true →
    ∃ t, exec .stepBack s = .next t ∧
      (field d 8 2 = 0 → Answers s t 5 [1, 0xFF, 1, 0]) ∧
      (0 < field d 8 2 → s.jrn.completeGroups < field d 8 2 → Answers s t 6 []) ∧
      (0 < field d 8 2 → field d 8 2 ≤ s.jrn.completeGroups → 48 ≤ s.ntc.overflow.length → Answers s t 7 []) ∧
      (0 < field d 8 2 → field d 8 2 ≤ s.jrn.completeGroups → s.ntc.overflow.length < 48 →
        ∃ w, t.cmd = { s.cmd with phase := .starting w } ∧ w.back = true ∧ w.toRemove = field d 8 2 ∧ w.targetC = none ∧
          w.groups = 0 ∧ w.removed = 0 ∧ w.stop = false ∧
          (s.jrn.geps.length ≤ field d 8 2 → w.endPos = s.jrn.oldest) ∧
          (∀ p, field d 8 2 < s.jrn.geps.length → s.jrn.geps[s.jrn.geps.length - field d 8 2 - 1]? = some p →
            w.endPos = p + 1)) ∧
      KeepsHistory s t ∧ t.lane = s.lane ∧ KeepsImage s t ∧ KeepsPins s t ∧ KeepsPath s t ∧ KeepsNotices s t) ∧
  (∀ j : Journal, j.completeGroups = if j.wrapped = false ∨ j.wholeSpan = true then j.geCount else j.geCount - 1)

/-! ## Watch and point commands -/

/-- WATCH_SET fills its slot and WATCH_CLEAR frees it, answered DONE with whether the slot was in use; a parameter out of range is BAD_PARAM
with its index, the first of slot, point, condition, action and quality operand that is none the format has (the bytes behind it: the
model's choice, log 19); both wait for a commit in flight. -/
def Obligations.WatchSlots : Prop :=
  (∀ (s : State) (d : List Byte), s.command 15 = some d → taken 15 s.lane.lane = true → s.sizesOk →
    ∃ t, exec .watchSet s = .next t ∧
      (∀ i, watchParams s.points d = .inl i → Answers s t 5 [BitVec.ofNat 8 i, 0xFF, 1, 0] ∧ t.commit = s.commit) ∧
      (∀ slot w, watchParams s.points d = .inr (slot, w) →
        (s.commit.flag = true → s.commit.fly.isSome = true →
          t.cmd = { s.cmd with phase := .waiting (.watchSet slot w) } ∧ t.commit = s.commit) ∧
        ((s.commit.flag = false ∨ s.commit.fly = none) →
          Answers s t 1 [if ((s.commit.watches[slot.toNat]?).join).isSome then 1 else 0] ∧
          t.commit.watches[slot.toNat]? = some (some w) ∧
          (∀ n, n ≠ slot.toNat → t.commit.watches[n]? = s.commit.watches[n]?) ∧ t.commit.flag = s.commit.flag ∧
          t.commit.fly = s.commit.fly)) ∧
      t.front = s.front ∧ t.merge = s.merge ∧ t.stager = s.stager ∧ t.jrn = s.jrn ∧ t.lane = s.lane ∧ KeepsImage s t ∧
      KeepsPins s t ∧ KeepsPath s t ∧ KeepsNotices s t) ∧
  (∀ (s : State) (d : List Byte), s.command 16 = some d → taken 16 s.lane.lane = true → s.sizesOk →
    ∃ t, exec .watchClear s = .next t ∧
      (31 < field d 8 1 → Answers s t 5 [1, 0xFF, 1, 0] ∧ t.commit = s.commit) ∧
      (field d 8 1 ≤ 31 →
        (s.commit.flag = true → s.commit.fly.isSome = true →
          t.cmd = { s.cmd with phase := .waiting (.watchClear (BitVec.ofNat 5 (field d 8 1))) } ∧ t.commit = s.commit) ∧
        ((s.commit.flag = false ∨ s.commit.fly = none) →
          Answers s t 1 [if ((s.commit.watches[field d 8 1]?).join).isSome then 1 else 0] ∧
          t.commit.watches[field d 8 1]? = some none ∧
          (∀ n, n ≠ field d 8 1 → t.commit.watches[n]? = s.commit.watches[n]?) ∧ t.commit.flag = s.commit.flag ∧
          t.commit.fly = s.commit.fly)) ∧
      t.front = s.front ∧ t.merge = s.merge ∧ t.stager = s.stager ∧ t.jrn = s.jrn ∧ t.lane = s.lane ∧ KeepsImage s t ∧
      KeepsPins s t ∧ KeepsPath s t ∧ KeepsNotices s t) ∧
  (∀ (p : Nat) (d : List Byte) (slot : BitVec 5) (w : Watch), watchParams p d = .inr (slot, w) →
    slot.toNat = field d 8 1 ∧ field d 10 2 < p ∧ w.point = BitVec.ofNat 16 (field d 10 2) ∧
    (field d 12 1 = 1 ∧ w.cond = .anyChange ∨ field d 12 1 = 2 ∧ w.cond = .equals (BitVec.ofNat 32 (field d 16 4)) ∨
      field d 12 1 = 3 ∧ w.cond = .qualitySet (BitVec.ofNat 8 (field d 16 1)) ∧
        oneFlag (BitVec.ofNat 8 (field d 16 1)) = true) ∧
    (field d 13 1 = 1 ∧ w.halt = false ∨ field d 13 1 = 2 ∧ w.halt = true)) ∧
  (∀ (p : Nat) (d : List Byte) (i : Nat), watchParams p d = .inl i ↔
    (i = 1 ∧ 31 < field d 8 1) ∨ (i = 2 ∧ field d 8 1 ≤ 31 ∧ p ≤ field d 10 2) ∨
    (field d 8 1 ≤ 31 ∧ field d 10 2 < p ∧
      ((i = 3 ∧ ¬(1 ≤ field d 12 1 ∧ field d 12 1 ≤ 3)) ∨
       (1 ≤ field d 12 1 ∧ field d 12 1 ≤ 3 ∧
         ((i = 4 ∧ field d 13 1 ≠ 1 ∧ field d 13 1 ≠ 2) ∨
          (i = 5 ∧ (field d 13 1 = 1 ∨ field d 13 1 = 2) ∧ field d 12 1 = 3 ∧
            oneFlag (BitVec.ofNat 8 (field d 16 1)) = false)))))) ∧
  (∀ q : BitVec 8, oneFlag q = true ↔ ∃ k, k < 8 ∧ q = BitVec.ofNat 8 (2 ^ k))

/-- QUERY_POINT: a point at or beyond P is BAD_PARAM (its bytes behind the index: the model's choice, log 19); it waits while the flag is set; else it answers with the directory, the override and
the dwell entry as they stand, and changes nothing. -/
def Obligations.PointQueried : Prop :=
  ∀ (s : State) (d : List Byte), s.command 21 = some d → taken 21 s.lane.lane = true →
    ∃ t, exec .queryPoint s = .next t ∧
      (s.points ≤ field d 8 2 → Answers s t 5 [1, 0xFF, 1, 0]) ∧
      (field d 8 2 < s.points → s.commit.flag = true →
        t.cmd = { s.cmd with phase := .waiting (.query (BitVec.ofNat 16 (field d 8 2))) }) ∧
      (∀ e, field d 8 2 < s.points → s.commit.flag = false → s.dirAt (BitVec.ofNat 16 (field d 8 2)) = some e →
        Answers s t 1 ([if e.kind = .status then 1 else 2, BitVec.ofNat 8 e.sel.code, BitVec.ofNat 8 e.dwell.toNat,
          if e.policy = .pin then 1 else 2,
          BitVec.ofNat 8 ((if e.lastGood.isSome then 1 else 0) + (if e.lastChange.isSome then 2 else 0) +
            (if (findOvr s.ovr (BitVec.ofNat 16 (field d 8 2))).isSome then 4 else 0) +
            (if (findDwell s.merge.dwell (BitVec.ofNat 16 (field d 8 2))).isSome then 8 else 0)), 0] ++
          leBytes 6 (e.lastChange.elim 0 fun c => c.time.toNat) ++
          [e.lastChange.elim 0xFF fun c => c.chan.setWidth 8])) ∧
      KeepsHistory s t ∧ t.lane = s.lane ∧ KeepsImage s t ∧ KeepsPins s t ∧ KeepsPath s t ∧ KeepsNotices s t

/-- SET_PRESENTATION: a range or selector that is none is BAD_PARAM (the index and cause for a range: log 19); LIVE, LAST_GOOD and BLANK are taken by the whole range as one change;
HOLD waits while the flag is set, and else reads the range's lines. HOLD_CAPTURE: the range takes HOLD with the captured values (where
another access has faulted the lane meanwhile, too: the model's choice, log 51; the window reads it comes after: log 60's). -/
def Obligations.PresentationSet : Prop :=
  (∀ (s : State) (d : List Byte) (first count : Nat), s.command 17 = some d → taken 17 s.lane.lane = true →
    first = field d 8 2 → count = field d 10 2 →
    ∃ t, exec .setPresentation s = .next t ∧
      (s.points ≤ first → Answers s t 5 [1, 0xFF, 1, 0] ∧ t.dir = s.dir) ∧
      (first < s.points → (count = 0 ∨ 16384 < count ∨ s.points < first + count) → Answers s t 5 [2, 0xFF, 1, 0] ∧ t.dir = s.dir) ∧
      (first + count ≤ s.points → 0 < count → count ≤ 16384 →
        (¬(1 ≤ field d 12 1 ∧ field d 12 1 ≤ 4) → Answers s t 5 [3, 0xFF, 1, 0] ∧ t.dir = s.dir) ∧
        (∀ x, selectorOf (field d 12 1) = some x → Answers s t 1 (leBytes 2 count) ∧
          ∀ (i : Nat) (e : DirEntry), s.dir[i]? = some e →
            t.dir[i]? = some (if first ≤ i ∧ i < first + count then { e with sel := x } else e)) ∧
        (field d 12 1 = 2 → s.commit.flag = true → t.cmd = { s.cmd with phase := .waiting (.hold first count) } ∧
          t.dir = s.dir) ∧
        (∀ g, field d 12 1 = 2 → s.commit.flag = false → s.regions = some g →
          t.cmd = { s.cmd with phase := .capturing first count [] } ∧ t.dir = s.dir ∧
          ∀ a ∈ rangeLines g first count, t.owesRead .holdRead a 64)) ∧
      t.ovr = s.ovr ∧ t.regions = s.regions ∧ KeepsHistory s t ∧ t.lane = s.lane ∧ KeepsPins s t ∧ KeepsPath s t ∧
      KeepsNotices s t) ∧
  (∀ (g : Regions) (first count p : Nat), g.pwBase % 64 = 0 → first ≤ p → p < first + count →
    lineOf (g.wordAddr p) ∈ rangeLines g first count) ∧
  (∀ (s : State) (g : Regions) (first count : Nat) (after : List Nat), s.resetAsserted = false →
    s.cmd.phase = .capturing first count after → s.regions = some g → s.captured g first count after = true →
    ∃ t, exec .holdCapture s = .next t ∧ Answers s t 1 (leBytes 2 count) ∧
      (∀ (i : Nat) (e : DirEntry), s.dir[i]? = some e → t.dir[i]? = some (if first ≤ i ∧ i < first + count then
        { e with sel := .hold (capturedWord g (s.path.returns.filter Ret.isCapture) i).value
                   (capturedWord g (s.path.returns.filter Ret.isCapture) i).quality } else e)) ∧
      t.path.returns = s.path.returns.filter (fun r => !r.isCapture) ∧ t.path.answers = s.path.answers ∧
      t.path.fwd = s.path.fwd ∧ t.path.held = s.path.held ∧ t.path.outst = s.path.outst ∧ t.ovr = s.ovr ∧
      t.regions = s.regions ∧ KeepsHistory s t ∧ t.lane = s.lane ∧ KeepsPins s t ∧ KeepsNotices s t)

/-- SET_DWELL and SET_OVERRIDE_POLICY: a range beyond the STATUS points, or beyond P, or an unknown class or policy is BAD_PARAM and changes
no entry (the index and cause for a range: log 19); else every point of the range, and no other, takes the class or policy. -/
def Obligations.RangeSettingsTaken : Prop :=
  (∀ (s : State) (d : List Byte) (first count : Nat), s.command 18 = some d → taken 18 s.lane.lane = true →
    first = field d 8 2 → count = field d 10 2 →
    ∃ t, exec .setDwell s = .next t ∧
      (s.statusPoints ≤ first → Answers s t 5 [1, 0xFF, 1, 0] ∧ t.dir = s.dir) ∧
      (first < s.statusPoints → (count = 0 ∨ 16384 < count ∨ s.statusPoints < first + count) →
        Answers s t 5 [2, 0xFF, 1, 0] ∧ t.dir = s.dir) ∧
      (first + count ≤ s.statusPoints → 0 < count → count ≤ 16384 →
        (3 < field d 12 1 → Answers s t 5 [3, 0xFF, 1, 0] ∧ t.dir = s.dir) ∧
        (field d 12 1 ≤ 3 → Answers s t 1 [] ∧ ∀ (i : Nat) (e : DirEntry), s.dir[i]? = some e → t.dir[i]? =
          some (if first ≤ i ∧ i < first + count then { e with dwell := BitVec.ofNat 2 (field d 12 1) } else e))) ∧
      t.ovr = s.ovr ∧ t.regions = s.regions ∧ KeepsHistory s t ∧ t.lane = s.lane ∧ KeepsPins s t ∧ KeepsPath s t ∧
      KeepsNotices s t) ∧
  (∀ (s : State) (d : List Byte) (first count : Nat), s.command 19 = some d → taken 19 s.lane.lane = true →
    first = field d 8 2 → count = field d 10 2 →
    ∃ t, exec .setOverridePolicy s = .next t ∧
      (s.points ≤ first → Answers s t 5 [1, 0xFF, 1, 0] ∧ t.dir = s.dir) ∧
      (first < s.points → (count = 0 ∨ 16384 < count ∨ s.points < first + count) →
        Answers s t 5 [2, 0xFF, 1, 0] ∧ t.dir = s.dir) ∧
      (first + count ≤ s.points → 0 < count → count ≤ 16384 →
        (field d 12 1 ≠ 1 → field d 12 1 ≠ 2 → Answers s t 5 [3, 0xFF, 1, 0] ∧ t.dir = s.dir) ∧
        (∀ p, (field d 12 1 = 1 ∧ p = .pin) ∨ (field d 12 1 = 2 ∧ p = .once) → Answers s t 1 [] ∧
          ∀ (i : Nat) (e : DirEntry), s.dir[i]? = some e → t.dir[i]? =
            some (if first ≤ i ∧ i < first + count then { e with policy := p } else e))) ∧
      t.ovr = s.ovr ∧ t.regions = s.regions ∧ KeepsHistory s t ∧ t.lane = s.lane ∧ KeepsPins s t ∧ KeepsPath s t ∧
      KeepsNotices s t)

/-- RELEASE_OVERRIDE removes every entry of its range and no other, and answers with their number (R153). -/
def Obligations.OverridesReleased : Prop :=
  ∀ (s : State) (d : List Byte) (first count : Nat), s.command 20 = some d → first = field d 8 2 → count = field d 10 2 →
    ((s.lane.lane = .stopped ∨ s.lane.lane = .running ∨ s.lane.lane = .stepping ∨ s.lane.lane = .holding ∨
        s.lane.lane = .rewinding) →
      ∃ t, exec .releaseOverride s = .next t ∧
        ((count = 0 ∨ 16384 < count ∨ s.points < first + count) → (∃ data, Answers s t 5 data) ∧ t.ovr = s.ovr) ∧
        (first + count ≤ s.points → 0 < count → count ≤ 16384 →
          (∀ e, e ∈ t.ovr ↔ (e ∈ s.ovr ∧ ¬(first ≤ e.point.toNat ∧ e.point.toNat < first + count))) ∧
          Answers s t 1 (leBytes 2 (s.ovr.length - t.ovr.length)) ∧
          (∀ p : PointNo, first ≤ p.toNat → p.toNat < first + count → findOvr t.ovr p = none ∧ ∀ w, t.present p w =
            { s with ovr := [] }.present p w) ∧
          t.ovrFree = 256 - t.ovr.length) ∧
        t.dir = s.dir ∧ t.regions = s.regions ∧ t.img = s.img ∧ KeepsHistory s t ∧ t.lane = s.lane ∧ KeepsPins s t ∧
        KeepsPath s t ∧ KeepsNotices s t) ∧
    ((s.lane.lane = .unconfigured ∨ s.lane.lane = .configuring ∨ s.lane.lane = .faulted) →
      ∃ t, exec .releaseOverride s = .next t ∧ Answers s t 3 [] ∧ KeepsImage s t ∧ KeepsHistory s t ∧ t.lane = s.lane ∧
        KeepsPins s t ∧ KeepsPath s t ∧ KeepsNotices s t)

/-! ## Waits, rejections and lane states -/

/-- COMMAND_WAIT_END: in a FAULTED lane a command that waited is refused, but for CONFIGURE, UNCONFIGURE and QUERY_POINT; else it acts as it
would have at once. (The read CONFIGURE begins with is log 20's choice; that a MARK that waited is not refused for a full overflow buffer,
log 24's; that UNCONFIGURE waits for window reads taken after its boundary too, log 55's; that a fault after the boundary waited for is
judged like one before it, a STOP whose lane went STOPPED there refused too, log 56's; that a HOLD comes after every window read still out
as its wait ends, log 60's.) -/
def Obligations.WaitsEnd : Prop :=
  ∀ (s : State) (w : WaitCmd), s.resetAsserted = false → s.cmd.phase = .waiting w → s.waitOver w = true →
    (s.lane.lane = .faulted → w ≠ .configure → w ≠ .unconfigure → (∀ p, w ≠ .query p) →
      ∃ t, exec .commandWaitEnd s = .next t ∧ Answers s t 3 [] ∧ KeepsHistory s t ∧ t.lane = s.lane ∧ KeepsImage s t ∧
        KeepsPins s t ∧ KeepsPath s t ∧ KeepsNotices s t) ∧
    (w = .stop → s.lane.lane ≠ .faulted → ∃ t, exec .commandWaitEnd s = .next t ∧ t.lane.lane = .stopped ∧
      Answers s t 1 (leBytes 1 2 ++ [0] ++ leBytes 6 s.lane.r.toNat ++ leBytes 4 s.lane.group.toNat) ∧
      s.lane.keepsClock t.lane ∧ t.stager = s.stager ∧ t.commit = s.commit ∧ t.jrn = s.jrn ∧ KeepsImage s t ∧ KeepsPins s t) ∧
    (w = .mark → s.lane.lane ≠ .faulted → s.jrn.marks.length < 8 → ∃ t, exec .commandWaitEnd s = .next t ∧
      t.jrn = { s.jrn with marks := s.jrn.marks ++
        [{ pos := s.jrn.head, r := s.lane.r, f := s.lane.f, c := s.lane.c, group := s.lane.group }] } ∧
      Answers s t 1 (leBytes 1 (s.jrn.marks.length + 1) ++ [0] ++ leBytes 6 s.lane.r.toNat ++ leBytes 4 s.lane.group.toNat ++
        leBytes 4 s.jrn.head.toNat) ∧ t.lane = s.lane ∧ KeepsImage s t ∧ KeepsPins s t) ∧
    (∀ b more, w = .mark → s.lane.lane ≠ .faulted → s.jrn.marks = b :: more → s.jrn.marks.length = 8 →
      ∃ t, exec .commandWaitEnd s = .next t ∧
        t.jrn = { s.jrn with marks := more ++
          [{ pos := s.jrn.head, r := s.lane.r, f := s.lane.f, c := s.lane.c, group := s.lane.group }] } ∧
        PostsFirst { time := s.lane.r, group := s.lane.group, point := none, chan := none, arch := none,
                     body := .markLost true b.r b.group b.pos } s t ∧
        Answers s t 1 (leBytes 1 8 ++ [0] ++ leBytes 6 s.lane.r.toNat ++ leBytes 4 s.lane.group.toNat ++
          leBytes 4 s.jrn.head.toNat) ∧ t.lane = s.lane ∧ KeepsImage s t ∧ KeepsPins s t) ∧
    (w = .configure → ∃ t, exec .commandWaitEnd s = .next t ∧ t.cmd = { s.cmd with phase := .validating [] [] 0 } ∧
      t.owesRead (.recordRead 0) s.cbBase 64 ∧ KeepsHistory s t ∧ t.lane = s.lane ∧ KeepsImage s t ∧ KeepsPins s t) ∧
    (w = .unconfigure → ∃ t, exec .commandWaitEnd s = .next t ∧ Answers s t 1 [] ∧ t.cmd.phase = .draining ∧
      t.jrn.walk = none ∧ t.lane = s.lane ∧ KeepsImage s t ∧ KeepsPins s t) ∧
    (∀ slot x, w = .watchSet slot x → s.lane.lane ≠ .faulted → ∃ t, exec .commandWaitEnd s = .next t ∧
      t.commit = { s.commit with watches := s.commit.watches.set slot.toNat (some x) } ∧
      Answers s t 1 [if ((s.commit.watches[slot.toNat]?).join).isSome then 1 else 0] ∧ t.lane = s.lane ∧ KeepsImage s t ∧
      KeepsPins s t) ∧
    (∀ slot, w = .watchClear slot → s.lane.lane ≠ .faulted → ∃ t, exec .commandWaitEnd s = .next t ∧
      t.commit = { s.commit with watches := s.commit.watches.set slot.toNat none } ∧
      Answers s t 1 [if ((s.commit.watches[slot.toNat]?).join).isSome then 1 else 0] ∧ t.lane = s.lane ∧ KeepsImage s t ∧
      KeepsPins s t) ∧
    (∀ first count g, w = .hold first count → s.lane.lane ≠ .faulted → s.regions = some g →
      ∃ t, exec .commandWaitEnd s = .next t ∧
        t.cmd = { s.cmd with phase := .capturing first count s.path.windowReadIds } ∧
        (∀ a ∈ rangeLines g first count, t.owesRead .holdRead a 64) ∧ KeepsHistory s t ∧ t.lane = s.lane ∧ KeepsImage s t ∧
        KeepsPins s t) ∧
    (∀ p, w = .query p → ∃ t, exec .commandWaitEnd s = .next t ∧ Answers s t 1 (s.queryData p) ∧ KeepsHistory s t ∧
      t.lane = s.lane ∧ KeepsImage s t ∧ KeepsPins s t)

/-- DESCRIPTOR_REJECTED: a descriptor whose read was answered MEMERR or whose sum is wrong is answered BAD_CHECK, an unknown code
UNKNOWN_COMMAND; the command changes no state. The lane states each command is taken in; outside them it is answered REFUSED_STATE
and changes no state. -/
def Obligations.CommandsRejected : Prop :=
  (∀ (s : State) (d : Option (List Byte)), s.resetAsserted = false → s.cmd.phase = .fetched d →
     (d = none → ∃ t, exec .descriptorRejected s = .next t ∧ Answers s t 4 [0, 0, 5] ∧ KeepsHistory s t ∧ t.lane = s.lane ∧
       KeepsImage s t ∧ KeepsPins s t ∧ KeepsPath s t ∧ KeepsNotices s t) ∧
     (∀ bs, d = some bs → onesSum (descBlock bs) ≠ 65535 → ∃ t, exec .descriptorRejected s = .next t ∧ Answers s t 4 [] ∧
       KeepsHistory s t ∧ t.lane = s.lane ∧ KeepsImage s t ∧ KeepsPins s t ∧ KeepsPath s t ∧ KeepsNotices s t) ∧
     (∀ bs, d = some bs → onesSum (descBlock bs) = 65535 → (descCode bs = 0 ∨ 21 < descCode bs) →
       ∃ t, exec .descriptorRejected s = .next t ∧ Answers s t 8 [] ∧ KeepsHistory s t ∧ t.lane = s.lane ∧ KeepsImage s t ∧
         KeepsPins s t ∧ KeepsPath s t ∧ KeepsNotices s t) ∧
     (∀ bs, d = some bs → onesSum (descBlock bs) = 65535 → 1 ≤ descCode bs → descCode bs ≤ 21 →
       exec .descriptorRejected s = .next s)) ∧
  ((∀ l : LaneState,
     (taken 1 l = true ↔ l ≠ .configuring ∧ l ≠ .rewinding) ∧ taken 2 l = true ∧
     (taken 3 l = true ↔ l = .stopped ∨ l = .running ∨ l = .stepping ∨ l = .holding) ∧ taken 4 l = taken 3 l ∧
     (taken 5 l = true ↔ l = .stopped ∨ l = .running ∨ l = .stepping ∨ l = .holding ∨ l = .rewinding) ∧
     taken 6 l = taken 5 l ∧ taken 7 l = taken 5 l ∧ taken 8 l = taken 5 l ∧ taken 9 l = taken 5 l ∧
     taken 10 l = taken 5 l ∧ taken 11 l = taken 3 l ∧ taken 12 l = taken 5 l ∧
     (taken 13 l = true ↔ l = .stopped ∨ l = .holding) ∧ taken 14 l = taken 13 l ∧ taken 15 l = taken 5 l ∧
     taken 16 l = taken 5 l ∧ taken 17 l = taken 5 l ∧ taken 18 l = taken 5 l ∧ taken 19 l = taken 5 l ∧
     taken 20 l = taken 5 l ∧ (taken 21 l = true ↔ l ≠ .unconfigured ∧ l ≠ .configuring)) ∧
   (∀ (i : Instr) (code : Nat) (s : State) (d : List Byte),
     (i, code) ∈ [(Instr.configure, 1), (.unconfigure, 2), (.run, 3), (.step, 4), (.stop, 5), (.setPace, 6), (.setStopTime, 7),
       (.setStopCount, 8), (.setSkew, 9), (.setChannel, 10), (.mark, 11), (.dropMark, 12), (.rewind, 13), (.stepBack, 14),
       (.watchSet, 15), (.watchClear, 16), (.setPresentation, 17), (.setDwell, 18), (.setOverridePolicy, 19),
       (.releaseOverride, 20), (.queryPoint, 21)] →
     s.command code = some d → taken code s.lane.lane = false →
     ∃ t, exec i s = .next t ∧ Answers s t 3 [] ∧ KeepsHistory s t ∧ t.lane = s.lane ∧ KeepsImage s t ∧ KeepsPins s t ∧
       KeepsPath s t ∧ KeepsNotices s t))


/-! ## Encodings and laws of the state -/

/-- Every entry the part writes into the journal is read back whole when the walk reads it: its 32 bytes decode to the entry. A
point word's eight bytes are read back whole, and what is read is laid out as it was; an own read of a word takes every field but bit 6
of the source (log 42). Each field of an entry and of a word stands at its place, and every byte of no field is 0; so are those of an
absent value (log 53). The status block shows each value at its place as it stands, the channels of a REWINDING lane aside (their
states and with them the safe time: log 43); a rewrite that is owed writes each line that differs from what was last generated for
it. -/
def Obligations.EncodingsRoundTrip : Prop :=
  (∀ (s : State) (l : LaneState),
    (field (s.statusLine l 0) 0 1 = l.code ∧ field (s.statusLine l 0) 1 1 = s.lane.holds.bits ∧
      field (s.statusLine l 0) 2 1 = s.lane.fault.code ∧
      (s.jrn.marks.length ≤ 8 → field (s.statusLine l 0) 3 1 = s.jrn.marks.length) ∧
      field (s.statusLine l 0) 4 4 = s.lane.group.toNat ∧ field (s.statusLine l 0) 8 8 = s.lane.c.toNat ∧
      field (s.statusLine l 0) 16 8 = s.lane.r.toNat ∧ field (s.statusLine l 0) 24 8 = s.lane.f.toNat ∧
      (s.lane.lane ≠ .rewinding → s.safe = none → field (s.statusLine l 0) 32 8 = 2 ^ 64 - 1) ∧
      (∀ x : Nat, s.lane.lane ≠ .rewinding → s.safe = some (x : Int) → x < 2 ^ 48 → field (s.statusLine l 0) 32 8 = x) ∧
      field (s.statusLine l 0) 40 8 = s.lane.stopTime.elim (2 ^ 64 - 1) (fun x => x.toNat) ∧
      (s.lane.pace < 2 ^ 32 → field (s.statusLine l 0) 48 4 = s.lane.pace) ∧
      field (s.statusLine l 0) 52 4 = s.lane.stopCount.toNat ∧ field (s.statusLine l 0) 56 8 = s.lane.faultAddr.toNat) ∧
    (field (s.statusLine l 1) 0 4 = s.lane.group.toNat ∧ field (s.statusLine l 1) 4 4 = s.jrn.head.toNat ∧
      field (s.statusLine l 1) 8 4 = s.jrn.oldest.toNat ∧ field (s.statusLine l 1) 12 4 = s.ntc.produced.toNat ∧
      field (s.statusLine l 1) 16 4 = s.ntc.discarded.toNat ∧
      (s.capacitiesOk → field (s.statusLine l 1) 20 2 = s.ovr.length ∧ field (s.statusLine l 1) 22 1 = s.merge.dwell.length)) ∧
    (field (s.statusLine l 2) 0 4 = s.lane.group.toNat ∧
      ∀ n, n < 8 → field (s.statusLine l 2) (8 + 6 * n) 6 = (s.jrn.marks[n]?).elim 0 fun m => m.r.toNat) ∧
    (∀ n, n < 64 → ∀ o, o = s.front.chans.find? (fun c => c.phys.toNat == n) →
      field (s.statusLine l (4 + n / 4)) (16 * (n % 4)) 1 = o.elim 0 (fun c => c.st.code) ∧
      field (s.statusLine l (4 + n / 4)) (16 * (n % 4) + 1) 3 = o.elim 0 (fun c => c.lateCount.toNat % 2 ^ 24) ∧
      field (s.statusLine l (4 + n / 4)) (16 * (n % 4) + 4) 4 = o.elim 0 (fun c => c.cursor.toNat) ∧
      field (s.statusLine l (4 + n / 4)) (16 * (n % 4) + 8) 4 = o.elim 0 (fun c => c.retain.toNat) ∧
      field (s.statusLine l (4 + n / 4)) (16 * (n % 4) + 12) 4 = o.elim 0 (fun c => c.rejected.toNat))) ∧
  (∀ (s : State) (n : Nat), s.rewriteOwed = true → s.ntc.status.length = 20 → n < 20 →
    (closeEvent s).ntc.status[n]? = some (some (s.statusLine s.lane.lane n)) ∧
    ((s.ntc.status[n]?).join ≠ some (s.statusLine s.lane.lane n) →
      (closeEvent s).owesWrite .statusWrite (s.cbBase + 0x1800 + 64 * n) (s.statusLine s.lane.lane n))) ∧
  (∀ bs : List Byte, PointWord.read bs = { PointWord.ofBytes bs with source := (PointWord.ofBytes bs).source &&& 0xBF }) ∧
  (∀ e : JEntry, e.wf = true → e.encode.length = 32 ∧ JEntry.decode e.encode = some e) ∧
  (∀ e : JEntry, Laid 32 e.layout e.encode) ∧ (∀ w : PointWord, Laid 8 (w.layout 0) w.toBytes) ∧
  ((∀ w : PointWord, w.toBytes.length = 8 ∧ PointWord.ofBytes w.toBytes = w) ∧
   (∀ bs : List Byte, bs.length = 8 → (PointWord.ofBytes bs).toBytes = bs) ∧
   (∀ (ch : ChanNo) (k : PKind), (sourceOf ch k).toNat = ch.toNat + if k = .analog then 128 else 0))

/-- Every step keeps the capacities: at most 256 overrides and 64 dwell entries, one for a point each, at most 48 notices waiting, at most 8
marks, and the memory path's queues within their places; at most 512 items in the stager, and at most 4 places of each head buffer in
use for a fetch in flight or a checked record. -/
def Obligations.CapacitiesKept : Prop :=
  (∀ s t : State, s.capacitiesOk → step s = .next t → t.capacitiesOk) ∧
  (State.reset.placesOk ∧ ∀ s t : State, s.placesOk → step s = .next t → t.placesOk)

/-- Every step keeps the tables of fixed size at their sizes; a LAGGING channel holds no checked record; the pace accumulator is 0 but in
PACED running, and 0 there while C stands at or above its limit; what is in flight fits the lane state, so that a walk in flight implies
REWINDING or FAULTED, and a lane in PACED running has none; C is never less than R, nor than the time of the group in flight, which R is to
take (at the end of a REWIND whose target was overwritten by the model's deduction, log 13); and no rewrite of the status block is owed
once the event that asked for it has ended. -/
def Obligations.StateLawsKept : Prop :=
  ((State.reset.sizesOk ∧ ∀ s t : State, s.sizesOk → step s = .next t → t.sizesOk) ∧
   (State.reset.laggingOk ∧ ∀ s t : State, s.laggingOk → step s = .next t → t.laggingOk) ∧
   (State.reset.paceOk ∧ ∀ s t : State, (s.jrn.walk = none ∨ s.paced = false) → s.paceOk → step s = .next t → t.paceOk) ∧
   (State.reset.flightsOk ∧ ∀ s t : State, s.flightsOk → step s = .next t → t.flightsOk) ∧
   (State.reset.clockOk ∧ ∀ s t : State, s.flightsOk → s.clockOk → step s = .next t → t.clockOk)) ∧
  (∀ s : State, s.flightsOk → (s.jrn.walk ≠ none → s.lane.lane = .rewinding ∨ s.lane.lane = .faulted) ∧
    (s.jrn.walk = none ∨ s.paced = false)) ∧
  (∀ s t : State, s.rewriteOwed = false → step s = .next t → t.rewriteOwed = false)

/-- Every step keeps: the lane is HOLDING exactly when its hold-reason set is non-empty. -/
def Obligations.HoldingExactly : Prop :=
  ∀ s t : State, s.lane.holdsOk → step s = .next t → t.lane.holdsOk


end
end

