-- ==== Sys2Proof/Laws/Bytes.lean ====
section
/-! SUPPORT. Reading a field of bytes back: `leBytes` against `leNat`, and a field within joined byte lists. -/

namespace Sys2Proof.Machine

theorem length_leBytes (n x : Nat) : (leBytes n x).length = n := by
  induction n generalizing x with
  | zero => rfl
  | succ n ih => simp [leBytes, ih]

theorem leNat_leBytes (n x : Nat) : leNat (leBytes n x) = x % 256 ^ n := by
  induction n generalizing x with
  | zero => simp [leBytes, leNat, Nat.mod_one]
  | succ n ih => simp [leBytes, leNat, ih, Nat.pow_succ', Nat.mod_mul]

/-- A field behind a part of the line is that field of what follows the part. -/
theorem field_append_skip (a b : List Byte) (off k : Nat) (h : a.length ≤ off) :
    field (a ++ b) off k = field b (off - a.length) k := by
  unfold field
  rw [List.drop_append, List.drop_of_length_le h, List.nil_append]

theorem field_leBytes_skip (m x off k : Nat) (b : List Byte) (h : m ≤ off) :
    field (leBytes m x ++ b) off k = field b (off - m) k := by
  rw [field_append_skip _ _ _ _ (by rw [length_leBytes]; exact h), length_leBytes]

theorem field_leBytes (n x : Nat) (b : List Byte) : field (leBytes n x ++ b) 0 n = x % 256 ^ n := by
  unfold field
  rw [List.drop_zero, List.take_append_of_le_length (Nat.le_of_eq (length_leBytes n x).symm),
    List.take_of_length_le (Nat.le_of_eq (length_leBytes n x)), leNat_leBytes]

/-- A field that lies within the first part of a line is a field of that part. -/
theorem field_append_left (a b : List Byte) (off k : Nat) (h : off + k ≤ a.length) : field (a ++ b) off k = field a off k := by
  unfold field
  rw [List.drop_append_of_le_length (by omega), List.take_append_of_le_length (by rw [List.length_drop]; omega)]

/-- A number in its own bytes is laid out as one field. -/
theorem laid_leBytes (n v : Nat) (h : v < 256 ^ n) : Laid n [(0, n, v)] (leBytes n v) := by
  refine ⟨length_leBytes n v, fun x m => ?_, fun i hi m => ?_⟩
  · rw [List.mem_singleton.mp m]
    have k := field_leBytes n v []
    rwa [List.append_nil, Nat.mod_eq_of_lt h] at k
  · have k := m _ (List.mem_singleton.mpr rfl)
    simp only [Nat.not_lt_zero, false_or, Nat.zero_add] at k
    omega

/-- Two structures side by side: the second one's fields move up by the length of the first. -/
theorem Laid.append {m n : Nat} {fs gs : List (Nat × Nat × Nat)} {a b : List Byte} (h : Laid m fs a) (k : Laid n gs b)
    (inside : ∀ x ∈ fs, x.1 + x.2.1 ≤ m) : Laid (m + n) (fs ++ gs.map fun x => (m + x.1, x.2)) (a ++ b) := by
  obtain ⟨ha, hf, hz⟩ := h
  obtain ⟨ka, kf, kz⟩ := k
  refine ⟨by rw [List.length_append, ha, ka], fun x e => ?_, fun i hi e => ?_⟩
  · rcases List.mem_append.mp e with e | e
    · rw [field_append_left a b x.1 x.2.1 (by rw [ha]; exact inside x e)]
      exact hf x e
    · obtain ⟨y, q, r⟩ := List.mem_map.mp e
      rw [← r, field_append_skip a b (m + y.1) y.2.1 (by omega), ha, Nat.add_sub_cancel_left]
      exact kf y q
  · by_cases l : i < m
    · rw [field_append_left a b i 1 (by omega)]
      exact hz i l fun x q => e x (List.mem_append.mpr (.inl q))
    · rw [field_append_skip a b i 1 (by omega), ha]
      refine kz (i - m) (by omega) fun x q => ?_
      have y := e (m + x.1, x.2) (List.mem_append.mpr (.inr (List.mem_map.mpr ⟨x, q, rfl⟩)))
      simp only at y
      omega

/-- A field that lies within what is padded is a field of it. -/
theorem field_padTo (n off k : Nat) (bs : List Byte) (h : off + k ≤ bs.length) (hn : bs.length ≤ n) :
    field (padTo n bs) off k = field bs off k := by
  unfold field padTo
  congr 1
  apply List.ext_getElem?
  intro i
  simp only [List.getElem?_take, List.getElem?_drop]
  split
  · rw [if_pos (by omega), List.getElem?_append_left (by omega)]
  · rfl

end Sys2Proof.Machine
end

