-- ==== Sys2Proof/Laws/State.lean ====
section
/-! SUPPORT. One lemma per field per update of State. -/

namespace Sys2Proof.Machine

@[simp] theorem State.updPath_pending (s : State) (f : Path → Path) : (s.updPath f).pending = s.pending := rfl
@[simp] theorem State.updPath_resetAsserted (s : State) (f : Path → Path) : (s.updPath f).resetAsserted = s.resetAsserted := rfl
@[simp] theorem State.updPath_cbStraps (s : State) (f : Path → Path) : (s.updPath f).cbStraps = s.cbStraps := rfl
@[simp] theorem State.updPath_wallUs (s : State) (f : Path → Path) : (s.updPath f).wallUs = s.wallUs := rfl
@[simp] theorem State.updPath_freeIdx (s : State) (f : Path → Path) : (s.updPath f).freeIdx = s.freeIdx := rfl
@[simp] theorem State.updPath_path (s : State) (f : Path → Path) : (s.updPath f).path = f s.path := rfl
@[simp] theorem State.updPath_regions (s : State) (f : Path → Path) : (s.updPath f).regions = s.regions := rfl
@[simp] theorem State.updPath_dir (s : State) (f : Path → Path) : (s.updPath f).dir = s.dir := rfl
@[simp] theorem State.updPath_ovr (s : State) (f : Path → Path) : (s.updPath f).ovr = s.ovr := rfl
@[simp] theorem State.updPath_front (s : State) (f : Path → Path) : (s.updPath f).front = s.front := rfl
@[simp] theorem State.updPath_merge (s : State) (f : Path → Path) : (s.updPath f).merge = s.merge := rfl
@[simp] theorem State.updPath_stager (s : State) (f : Path → Path) : (s.updPath f).stager = s.stager := rfl
@[simp] theorem State.updPath_commit (s : State) (f : Path → Path) : (s.updPath f).commit = s.commit := rfl
@[simp] theorem State.updPath_lane (s : State) (f : Path → Path) : (s.updPath f).lane = s.lane := rfl
@[simp] theorem State.updPath_jrn (s : State) (f : Path → Path) : (s.updPath f).jrn = s.jrn := rfl
@[simp] theorem State.updPath_cmd (s : State) (f : Path → Path) : (s.updPath f).cmd = s.cmd := rfl
@[simp] theorem State.updPath_ntc (s : State) (f : Path → Path) : (s.updPath f).ntc = s.ntc := rfl
@[simp] theorem State.updPath_img (s : State) (f : Path → Path) : (s.updPath f).img = s.img := rfl

@[simp] theorem State.updFront_pending (s : State) (f : Front → Front) : (s.updFront f).pending = s.pending := rfl
@[simp] theorem State.updFront_resetAsserted (s : State) (f : Front → Front) : (s.updFront f).resetAsserted = s.resetAsserted := rfl
@[simp] theorem State.updFront_cbStraps (s : State) (f : Front → Front) : (s.updFront f).cbStraps = s.cbStraps := rfl
@[simp] theorem State.updFront_wallUs (s : State) (f : Front → Front) : (s.updFront f).wallUs = s.wallUs := rfl
@[simp] theorem State.updFront_freeIdx (s : State) (f : Front → Front) : (s.updFront f).freeIdx = s.freeIdx := rfl
@[simp] theorem State.updFront_path (s : State) (f : Front → Front) : (s.updFront f).path = s.path := rfl
@[simp] theorem State.updFront_regions (s : State) (f : Front → Front) : (s.updFront f).regions = s.regions := rfl
@[simp] theorem State.updFront_dir (s : State) (f : Front → Front) : (s.updFront f).dir = s.dir := rfl
@[simp] theorem State.updFront_ovr (s : State) (f : Front → Front) : (s.updFront f).ovr = s.ovr := rfl
@[simp] theorem State.updFront_front (s : State) (f : Front → Front) : (s.updFront f).front = f s.front := rfl
@[simp] theorem State.updFront_merge (s : State) (f : Front → Front) : (s.updFront f).merge = s.merge := rfl
@[simp] theorem State.updFront_stager (s : State) (f : Front → Front) : (s.updFront f).stager = s.stager := rfl
@[simp] theorem State.updFront_commit (s : State) (f : Front → Front) : (s.updFront f).commit = s.commit := rfl
@[simp] theorem State.updFront_lane (s : State) (f : Front → Front) : (s.updFront f).lane = s.lane := rfl
@[simp] theorem State.updFront_jrn (s : State) (f : Front → Front) : (s.updFront f).jrn = s.jrn := rfl
@[simp] theorem State.updFront_cmd (s : State) (f : Front → Front) : (s.updFront f).cmd = s.cmd := rfl
@[simp] theorem State.updFront_ntc (s : State) (f : Front → Front) : (s.updFront f).ntc = s.ntc := rfl
@[simp] theorem State.updFront_img (s : State) (f : Front → Front) : (s.updFront f).img = s.img := rfl

@[simp] theorem State.updMerge_pending (s : State) (f : Merge → Merge) : (s.updMerge f).pending = s.pending := rfl
@[simp] theorem State.updMerge_resetAsserted (s : State) (f : Merge → Merge) : (s.updMerge f).resetAsserted = s.resetAsserted := rfl
@[simp] theorem State.updMerge_cbStraps (s : State) (f : Merge → Merge) : (s.updMerge f).cbStraps = s.cbStraps := rfl
@[simp] theorem State.updMerge_wallUs (s : State) (f : Merge → Merge) : (s.updMerge f).wallUs = s.wallUs := rfl
@[simp] theorem State.updMerge_freeIdx (s : State) (f : Merge → Merge) : (s.updMerge f).freeIdx = s.freeIdx := rfl
@[simp] theorem State.updMerge_path (s : State) (f : Merge → Merge) : (s.updMerge f).path = s.path := rfl
@[simp] theorem State.updMerge_regions (s : State) (f : Merge → Merge) : (s.updMerge f).regions = s.regions := rfl
@[simp] theorem State.updMerge_dir (s : State) (f : Merge → Merge) : (s.updMerge f).dir = s.dir := rfl
@[simp] theorem State.updMerge_ovr (s : State) (f : Merge → Merge) : (s.updMerge f).ovr = s.ovr := rfl
@[simp] theorem State.updMerge_front (s : State) (f : Merge → Merge) : (s.updMerge f).front = s.front := rfl
@[simp] theorem State.updMerge_merge (s : State) (f : Merge → Merge) : (s.updMerge f).merge = f s.merge := rfl
@[simp] theorem State.updMerge_stager (s : State) (f : Merge → Merge) : (s.updMerge f).stager = s.stager := rfl
@[simp] theorem State.updMerge_commit (s : State) (f : Merge → Merge) : (s.updMerge f).commit = s.commit := rfl
@[simp] theorem State.updMerge_lane (s : State) (f : Merge → Merge) : (s.updMerge f).lane = s.lane := rfl
@[simp] theorem State.updMerge_jrn (s : State) (f : Merge → Merge) : (s.updMerge f).jrn = s.jrn := rfl
@[simp] theorem State.updMerge_cmd (s : State) (f : Merge → Merge) : (s.updMerge f).cmd = s.cmd := rfl
@[simp] theorem State.updMerge_ntc (s : State) (f : Merge → Merge) : (s.updMerge f).ntc = s.ntc := rfl
@[simp] theorem State.updMerge_img (s : State) (f : Merge → Merge) : (s.updMerge f).img = s.img := rfl

@[simp] theorem State.updStager_pending (s : State) (f : Stager → Stager) : (s.updStager f).pending = s.pending := rfl
@[simp] theorem State.updStager_resetAsserted (s : State) (f : Stager → Stager) : (s.updStager f).resetAsserted = s.resetAsserted := rfl
@[simp] theorem State.updStager_cbStraps (s : State) (f : Stager → Stager) : (s.updStager f).cbStraps = s.cbStraps := rfl
@[simp] theorem State.updStager_wallUs (s : State) (f : Stager → Stager) : (s.updStager f).wallUs = s.wallUs := rfl
@[simp] theorem State.updStager_freeIdx (s : State) (f : Stager → Stager) : (s.updStager f).freeIdx = s.freeIdx := rfl
@[simp] theorem State.updStager_path (s : State) (f : Stager → Stager) : (s.updStager f).path = s.path := rfl
@[simp] theorem State.updStager_regions (s : State) (f : Stager → Stager) : (s.updStager f).regions = s.regions := rfl
@[simp] theorem State.updStager_dir (s : State) (f : Stager → Stager) : (s.updStager f).dir = s.dir := rfl
@[simp] theorem State.updStager_ovr (s : State) (f : Stager → Stager) : (s.updStager f).ovr = s.ovr := rfl
@[simp] theorem State.updStager_front (s : State) (f : Stager → Stager) : (s.updStager f).front = s.front := rfl
@[simp] theorem State.updStager_merge (s : State) (f : Stager → Stager) : (s.updStager f).merge = s.merge := rfl
@[simp] theorem State.updStager_stager (s : State) (f : Stager → Stager) : (s.updStager f).stager = f s.stager := rfl
@[simp] theorem State.updStager_commit (s : State) (f : Stager → Stager) : (s.updStager f).commit = s.commit := rfl
@[simp] theorem State.updStager_lane (s : State) (f : Stager → Stager) : (s.updStager f).lane = s.lane := rfl
@[simp] theorem State.updStager_jrn (s : State) (f : Stager → Stager) : (s.updStager f).jrn = s.jrn := rfl
@[simp] theorem State.updStager_cmd (s : State) (f : Stager → Stager) : (s.updStager f).cmd = s.cmd := rfl
@[simp] theorem State.updStager_ntc (s : State) (f : Stager → Stager) : (s.updStager f).ntc = s.ntc := rfl
@[simp] theorem State.updStager_img (s : State) (f : Stager → Stager) : (s.updStager f).img = s.img := rfl

@[simp] theorem State.updCommit_pending (s : State) (f : Commit → Commit) : (s.updCommit f).pending = s.pending := rfl
@[simp] theorem State.updCommit_resetAsserted (s : State) (f : Commit → Commit) : (s.updCommit f).resetAsserted = s.resetAsserted := rfl
@[simp] theorem State.updCommit_cbStraps (s : State) (f : Commit → Commit) : (s.updCommit f).cbStraps = s.cbStraps := rfl
@[simp] theorem State.updCommit_wallUs (s : State) (f : Commit → Commit) : (s.updCommit f).wallUs = s.wallUs := rfl
@[simp] theorem State.updCommit_freeIdx (s : State) (f : Commit → Commit) : (s.updCommit f).freeIdx = s.freeIdx := rfl
@[simp] theorem State.updCommit_path (s : State) (f : Commit → Commit) : (s.updCommit f).path = s.path := rfl
@[simp] theorem State.updCommit_regions (s : State) (f : Commit → Commit) : (s.updCommit f).regions = s.regions := rfl
@[simp] theorem State.updCommit_dir (s : State) (f : Commit → Commit) : (s.updCommit f).dir = s.dir := rfl
@[simp] theorem State.updCommit_ovr (s : State) (f : Commit → Commit) : (s.updCommit f).ovr = s.ovr := rfl
@[simp] theorem State.updCommit_front (s : State) (f : Commit → Commit) : (s.updCommit f).front = s.front := rfl
@[simp] theorem State.updCommit_merge (s : State) (f : Commit → Commit) : (s.updCommit f).merge = s.merge := rfl
@[simp] theorem State.updCommit_stager (s : State) (f : Commit → Commit) : (s.updCommit f).stager = s.stager := rfl
@[simp] theorem State.updCommit_commit (s : State) (f : Commit → Commit) : (s.updCommit f).commit = f s.commit := rfl
@[simp] theorem State.updCommit_lane (s : State) (f : Commit → Commit) : (s.updCommit f).lane = s.lane := rfl
@[simp] theorem State.updCommit_jrn (s : State) (f : Commit → Commit) : (s.updCommit f).jrn = s.jrn := rfl
@[simp] theorem State.updCommit_cmd (s : State) (f : Commit → Commit) : (s.updCommit f).cmd = s.cmd := rfl
@[simp] theorem State.updCommit_ntc (s : State) (f : Commit → Commit) : (s.updCommit f).ntc = s.ntc := rfl
@[simp] theorem State.updCommit_img (s : State) (f : Commit → Commit) : (s.updCommit f).img = s.img := rfl

@[simp] theorem State.updLane_pending (s : State) (f : Timeline → Timeline) : (s.updLane f).pending = s.pending := rfl
@[simp] theorem State.updLane_resetAsserted (s : State) (f : Timeline → Timeline) : (s.updLane f).resetAsserted = s.resetAsserted := rfl
@[simp] theorem State.updLane_cbStraps (s : State) (f : Timeline → Timeline) : (s.updLane f).cbStraps = s.cbStraps := rfl
@[simp] theorem State.updLane_wallUs (s : State) (f : Timeline → Timeline) : (s.updLane f).wallUs = s.wallUs := rfl
@[simp] theorem State.updLane_freeIdx (s : State) (f : Timeline → Timeline) : (s.updLane f).freeIdx = s.freeIdx := rfl
@[simp] theorem State.updLane_path (s : State) (f : Timeline → Timeline) : (s.updLane f).path = s.path := rfl
@[simp] theorem State.updLane_regions (s : State) (f : Timeline → Timeline) : (s.updLane f).regions = s.regions := rfl
@[simp] theorem State.updLane_dir (s : State) (f : Timeline → Timeline) : (s.updLane f).dir = s.dir := rfl
@[simp] theorem State.updLane_ovr (s : State) (f : Timeline → Timeline) : (s.updLane f).ovr = s.ovr := rfl
@[simp] theorem State.updLane_front (s : State) (f : Timeline → Timeline) : (s.updLane f).front = s.front := rfl
@[simp] theorem State.updLane_merge (s : State) (f : Timeline → Timeline) : (s.updLane f).merge = s.merge := rfl
@[simp] theorem State.updLane_stager (s : State) (f : Timeline → Timeline) : (s.updLane f).stager = s.stager := rfl
@[simp] theorem State.updLane_commit (s : State) (f : Timeline → Timeline) : (s.updLane f).commit = s.commit := rfl
@[simp] theorem State.updLane_lane (s : State) (f : Timeline → Timeline) : (s.updLane f).lane = f s.lane := rfl
@[simp] theorem State.updLane_jrn (s : State) (f : Timeline → Timeline) : (s.updLane f).jrn = s.jrn := rfl
@[simp] theorem State.updLane_cmd (s : State) (f : Timeline → Timeline) : (s.updLane f).cmd = s.cmd := rfl
@[simp] theorem State.updLane_ntc (s : State) (f : Timeline → Timeline) : (s.updLane f).ntc = s.ntc := rfl
@[simp] theorem State.updLane_img (s : State) (f : Timeline → Timeline) : (s.updLane f).img = s.img := rfl

@[simp] theorem State.updJrn_pending (s : State) (f : Journal → Journal) : (s.updJrn f).pending = s.pending := rfl
@[simp] theorem State.updJrn_resetAsserted (s : State) (f : Journal → Journal) : (s.updJrn f).resetAsserted = s.resetAsserted := rfl
@[simp] theorem State.updJrn_cbStraps (s : State) (f : Journal → Journal) : (s.updJrn f).cbStraps = s.cbStraps := rfl
@[simp] theorem State.updJrn_wallUs (s : State) (f : Journal → Journal) : (s.updJrn f).wallUs = s.wallUs := rfl
@[simp] theorem State.updJrn_freeIdx (s : State) (f : Journal → Journal) : (s.updJrn f).freeIdx = s.freeIdx := rfl
@[simp] theorem State.updJrn_path (s : State) (f : Journal → Journal) : (s.updJrn f).path = s.path := rfl
@[simp] theorem State.updJrn_regions (s : State) (f : Journal → Journal) : (s.updJrn f).regions = s.regions := rfl
@[simp] theorem State.updJrn_dir (s : State) (f : Journal → Journal) : (s.updJrn f).dir = s.dir := rfl
@[simp] theorem State.updJrn_ovr (s : State) (f : Journal → Journal) : (s.updJrn f).ovr = s.ovr := rfl
@[simp] theorem State.updJrn_front (s : State) (f : Journal → Journal) : (s.updJrn f).front = s.front := rfl
@[simp] theorem State.updJrn_merge (s : State) (f : Journal → Journal) : (s.updJrn f).merge = s.merge := rfl
@[simp] theorem State.updJrn_stager (s : State) (f : Journal → Journal) : (s.updJrn f).stager = s.stager := rfl
@[simp] theorem State.updJrn_commit (s : State) (f : Journal → Journal) : (s.updJrn f).commit = s.commit := rfl
@[simp] theorem State.updJrn_lane (s : State) (f : Journal → Journal) : (s.updJrn f).lane = s.lane := rfl
@[simp] theorem State.updJrn_jrn (s : State) (f : Journal → Journal) : (s.updJrn f).jrn = f s.jrn := rfl
@[simp] theorem State.updJrn_cmd (s : State) (f : Journal → Journal) : (s.updJrn f).cmd = s.cmd := rfl
@[simp] theorem State.updJrn_ntc (s : State) (f : Journal → Journal) : (s.updJrn f).ntc = s.ntc := rfl
@[simp] theorem State.updJrn_img (s : State) (f : Journal → Journal) : (s.updJrn f).img = s.img := rfl

@[simp] theorem State.updCmd_pending (s : State) (f : CmdProc → CmdProc) : (s.updCmd f).pending = s.pending := rfl
@[simp] theorem State.updCmd_resetAsserted (s : State) (f : CmdProc → CmdProc) : (s.updCmd f).resetAsserted = s.resetAsserted := rfl
@[simp] theorem State.updCmd_cbStraps (s : State) (f : CmdProc → CmdProc) : (s.updCmd f).cbStraps = s.cbStraps := rfl
@[simp] theorem State.updCmd_wallUs (s : State) (f : CmdProc → CmdProc) : (s.updCmd f).wallUs = s.wallUs := rfl
@[simp] theorem State.updCmd_freeIdx (s : State) (f : CmdProc → CmdProc) : (s.updCmd f).freeIdx = s.freeIdx := rfl
@[simp] theorem State.updCmd_path (s : State) (f : CmdProc → CmdProc) : (s.updCmd f).path = s.path := rfl
@[simp] theorem State.updCmd_regions (s : State) (f : CmdProc → CmdProc) : (s.updCmd f).regions = s.regions := rfl
@[simp] theorem State.updCmd_dir (s : State) (f : CmdProc → CmdProc) : (s.updCmd f).dir = s.dir := rfl
@[simp] theorem State.updCmd_ovr (s : State) (f : CmdProc → CmdProc) : (s.updCmd f).ovr = s.ovr := rfl
@[simp] theorem State.updCmd_front (s : State) (f : CmdProc → CmdProc) : (s.updCmd f).front = s.front := rfl
@[simp] theorem State.updCmd_merge (s : State) (f : CmdProc → CmdProc) : (s.updCmd f).merge = s.merge := rfl
@[simp] theorem State.updCmd_stager (s : State) (f : CmdProc → CmdProc) : (s.updCmd f).stager = s.stager := rfl
@[simp] theorem State.updCmd_commit (s : State) (f : CmdProc → CmdProc) : (s.updCmd f).commit = s.commit := rfl
@[simp] theorem State.updCmd_lane (s : State) (f : CmdProc → CmdProc) : (s.updCmd f).lane = s.lane := rfl
@[simp] theorem State.updCmd_jrn (s : State) (f : CmdProc → CmdProc) : (s.updCmd f).jrn = s.jrn := rfl
@[simp] theorem State.updCmd_cmd (s : State) (f : CmdProc → CmdProc) : (s.updCmd f).cmd = f s.cmd := rfl
@[simp] theorem State.updCmd_ntc (s : State) (f : CmdProc → CmdProc) : (s.updCmd f).ntc = s.ntc := rfl
@[simp] theorem State.updCmd_img (s : State) (f : CmdProc → CmdProc) : (s.updCmd f).img = s.img := rfl

@[simp] theorem State.updNtc_pending (s : State) (f : NoticeUnit → NoticeUnit) : (s.updNtc f).pending = s.pending := rfl
@[simp] theorem State.updNtc_resetAsserted (s : State) (f : NoticeUnit → NoticeUnit) : (s.updNtc f).resetAsserted = s.resetAsserted := rfl
@[simp] theorem State.updNtc_cbStraps (s : State) (f : NoticeUnit → NoticeUnit) : (s.updNtc f).cbStraps = s.cbStraps := rfl
@[simp] theorem State.updNtc_wallUs (s : State) (f : NoticeUnit → NoticeUnit) : (s.updNtc f).wallUs = s.wallUs := rfl
@[simp] theorem State.updNtc_freeIdx (s : State) (f : NoticeUnit → NoticeUnit) : (s.updNtc f).freeIdx = s.freeIdx := rfl
@[simp] theorem State.updNtc_path (s : State) (f : NoticeUnit → NoticeUnit) : (s.updNtc f).path = s.path := rfl
@[simp] theorem State.updNtc_regions (s : State) (f : NoticeUnit → NoticeUnit) : (s.updNtc f).regions = s.regions := rfl
@[simp] theorem State.updNtc_dir (s : State) (f : NoticeUnit → NoticeUnit) : (s.updNtc f).dir = s.dir := rfl
@[simp] theorem State.updNtc_ovr (s : State) (f : NoticeUnit → NoticeUnit) : (s.updNtc f).ovr = s.ovr := rfl
@[simp] theorem State.updNtc_front (s : State) (f : NoticeUnit → NoticeUnit) : (s.updNtc f).front = s.front := rfl
@[simp] theorem State.updNtc_merge (s : State) (f : NoticeUnit → NoticeUnit) : (s.updNtc f).merge = s.merge := rfl
@[simp] theorem State.updNtc_stager (s : State) (f : NoticeUnit → NoticeUnit) : (s.updNtc f).stager = s.stager := rfl
@[simp] theorem State.updNtc_commit (s : State) (f : NoticeUnit → NoticeUnit) : (s.updNtc f).commit = s.commit := rfl
@[simp] theorem State.updNtc_lane (s : State) (f : NoticeUnit → NoticeUnit) : (s.updNtc f).lane = s.lane := rfl
@[simp] theorem State.updNtc_jrn (s : State) (f : NoticeUnit → NoticeUnit) : (s.updNtc f).jrn = s.jrn := rfl
@[simp] theorem State.updNtc_cmd (s : State) (f : NoticeUnit → NoticeUnit) : (s.updNtc f).cmd = s.cmd := rfl
@[simp] theorem State.updNtc_ntc (s : State) (f : NoticeUnit → NoticeUnit) : (s.updNtc f).ntc = f s.ntc := rfl
@[simp] theorem State.updNtc_img (s : State) (f : NoticeUnit → NoticeUnit) : (s.updNtc f).img = s.img := rfl

@[simp] theorem State.setDir_pending (s : State) (x : List DirEntry) : (s.setDir x).pending = s.pending := rfl
@[simp] theorem State.setDir_resetAsserted (s : State) (x : List DirEntry) : (s.setDir x).resetAsserted = s.resetAsserted := rfl
@[simp] theorem State.setDir_cbStraps (s : State) (x : List DirEntry) : (s.setDir x).cbStraps = s.cbStraps := rfl
@[simp] theorem State.setDir_wallUs (s : State) (x : List DirEntry) : (s.setDir x).wallUs = s.wallUs := rfl
@[simp] theorem State.setDir_freeIdx (s : State) (x : List DirEntry) : (s.setDir x).freeIdx = s.freeIdx := rfl
@[simp] theorem State.setDir_path (s : State) (x : List DirEntry) : (s.setDir x).path = s.path := rfl
@[simp] theorem State.setDir_regions (s : State) (x : List DirEntry) : (s.setDir x).regions = s.regions := rfl
@[simp] theorem State.setDir_dir (s : State) (x : List DirEntry) : (s.setDir x).dir = x := rfl
@[simp] theorem State.setDir_ovr (s : State) (x : List DirEntry) : (s.setDir x).ovr = s.ovr := rfl
@[simp] theorem State.setDir_front (s : State) (x : List DirEntry) : (s.setDir x).front = s.front := rfl
@[simp] theorem State.setDir_merge (s : State) (x : List DirEntry) : (s.setDir x).merge = s.merge := rfl
@[simp] theorem State.setDir_stager (s : State) (x : List DirEntry) : (s.setDir x).stager = s.stager := rfl
@[simp] theorem State.setDir_commit (s : State) (x : List DirEntry) : (s.setDir x).commit = s.commit := rfl
@[simp] theorem State.setDir_lane (s : State) (x : List DirEntry) : (s.setDir x).lane = s.lane := rfl
@[simp] theorem State.setDir_jrn (s : State) (x : List DirEntry) : (s.setDir x).jrn = s.jrn := rfl
@[simp] theorem State.setDir_cmd (s : State) (x : List DirEntry) : (s.setDir x).cmd = s.cmd := rfl
@[simp] theorem State.setDir_ntc (s : State) (x : List DirEntry) : (s.setDir x).ntc = s.ntc := rfl
@[simp] theorem State.setDir_img (s : State) (x : List DirEntry) : (s.setDir x).img = s.img := rfl

@[simp] theorem State.setOvr_pending (s : State) (x : List OvrEntry) : (s.setOvr x).pending = s.pending := rfl
@[simp] theorem State.setOvr_resetAsserted (s : State) (x : List OvrEntry) : (s.setOvr x).resetAsserted = s.resetAsserted := rfl
@[simp] theorem State.setOvr_cbStraps (s : State) (x : List OvrEntry) : (s.setOvr x).cbStraps = s.cbStraps := rfl
@[simp] theorem State.setOvr_wallUs (s : State) (x : List OvrEntry) : (s.setOvr x).wallUs = s.wallUs := rfl
@[simp] theorem State.setOvr_freeIdx (s : State) (x : List OvrEntry) : (s.setOvr x).freeIdx = s.freeIdx := rfl
@[simp] theorem State.setOvr_path (s : State) (x : List OvrEntry) : (s.setOvr x).path = s.path := rfl
@[simp] theorem State.setOvr_regions (s : State) (x : List OvrEntry) : (s.setOvr x).regions = s.regions := rfl
@[simp] theorem State.setOvr_dir (s : State) (x : List OvrEntry) : (s.setOvr x).dir = s.dir := rfl
@[simp] theorem State.setOvr_ovr (s : State) (x : List OvrEntry) : (s.setOvr x).ovr = x := rfl
@[simp] theorem State.setOvr_front (s : State) (x : List OvrEntry) : (s.setOvr x).front = s.front := rfl
@[simp] theorem State.setOvr_merge (s : State) (x : List OvrEntry) : (s.setOvr x).merge = s.merge := rfl
@[simp] theorem State.setOvr_stager (s : State) (x : List OvrEntry) : (s.setOvr x).stager = s.stager := rfl
@[simp] theorem State.setOvr_commit (s : State) (x : List OvrEntry) : (s.setOvr x).commit = s.commit := rfl
@[simp] theorem State.setOvr_lane (s : State) (x : List OvrEntry) : (s.setOvr x).lane = s.lane := rfl
@[simp] theorem State.setOvr_jrn (s : State) (x : List OvrEntry) : (s.setOvr x).jrn = s.jrn := rfl
@[simp] theorem State.setOvr_cmd (s : State) (x : List OvrEntry) : (s.setOvr x).cmd = s.cmd := rfl
@[simp] theorem State.setOvr_ntc (s : State) (x : List OvrEntry) : (s.setOvr x).ntc = s.ntc := rfl
@[simp] theorem State.setOvr_img (s : State) (x : List OvrEntry) : (s.setOvr x).img = s.img := rfl

@[simp] theorem State.setImg_pending (s : State) (x : Option ImgPass) : (s.setImg x).pending = s.pending := rfl
@[simp] theorem State.setImg_resetAsserted (s : State) (x : Option ImgPass) : (s.setImg x).resetAsserted = s.resetAsserted := rfl
@[simp] theorem State.setImg_cbStraps (s : State) (x : Option ImgPass) : (s.setImg x).cbStraps = s.cbStraps := rfl
@[simp] theorem State.setImg_wallUs (s : State) (x : Option ImgPass) : (s.setImg x).wallUs = s.wallUs := rfl
@[simp] theorem State.setImg_freeIdx (s : State) (x : Option ImgPass) : (s.setImg x).freeIdx = s.freeIdx := rfl
@[simp] theorem State.setImg_path (s : State) (x : Option ImgPass) : (s.setImg x).path = s.path := rfl
@[simp] theorem State.setImg_regions (s : State) (x : Option ImgPass) : (s.setImg x).regions = s.regions := rfl
@[simp] theorem State.setImg_dir (s : State) (x : Option ImgPass) : (s.setImg x).dir = s.dir := rfl
@[simp] theorem State.setImg_ovr (s : State) (x : Option ImgPass) : (s.setImg x).ovr = s.ovr := rfl
@[simp] theorem State.setImg_front (s : State) (x : Option ImgPass) : (s.setImg x).front = s.front := rfl
@[simp] theorem State.setImg_merge (s : State) (x : Option ImgPass) : (s.setImg x).merge = s.merge := rfl
@[simp] theorem State.setImg_stager (s : State) (x : Option ImgPass) : (s.setImg x).stager = s.stager := rfl
@[simp] theorem State.setImg_commit (s : State) (x : Option ImgPass) : (s.setImg x).commit = s.commit := rfl
@[simp] theorem State.setImg_lane (s : State) (x : Option ImgPass) : (s.setImg x).lane = s.lane := rfl
@[simp] theorem State.setImg_jrn (s : State) (x : Option ImgPass) : (s.setImg x).jrn = s.jrn := rfl
@[simp] theorem State.setImg_cmd (s : State) (x : Option ImgPass) : (s.setImg x).cmd = s.cmd := rfl
@[simp] theorem State.setImg_ntc (s : State) (x : Option ImgPass) : (s.setImg x).ntc = s.ntc := rfl
@[simp] theorem State.setImg_img (s : State) (x : Option ImgPass) : (s.setImg x).img = x := rfl

@[simp] theorem State.setPending_pending (s : State) (x : List Instr) : (s.setPending x).pending = x := rfl
@[simp] theorem State.setPending_resetAsserted (s : State) (x : List Instr) : (s.setPending x).resetAsserted = s.resetAsserted := rfl
@[simp] theorem State.setPending_cbStraps (s : State) (x : List Instr) : (s.setPending x).cbStraps = s.cbStraps := rfl
@[simp] theorem State.setPending_wallUs (s : State) (x : List Instr) : (s.setPending x).wallUs = s.wallUs := rfl
@[simp] theorem State.setPending_freeIdx (s : State) (x : List Instr) : (s.setPending x).freeIdx = s.freeIdx := rfl
@[simp] theorem State.setPending_path (s : State) (x : List Instr) : (s.setPending x).path = s.path := rfl
@[simp] theorem State.setPending_regions (s : State) (x : List Instr) : (s.setPending x).regions = s.regions := rfl
@[simp] theorem State.setPending_dir (s : State) (x : List Instr) : (s.setPending x).dir = s.dir := rfl
@[simp] theorem State.setPending_ovr (s : State) (x : List Instr) : (s.setPending x).ovr = s.ovr := rfl
@[simp] theorem State.setPending_front (s : State) (x : List Instr) : (s.setPending x).front = s.front := rfl
@[simp] theorem State.setPending_merge (s : State) (x : List Instr) : (s.setPending x).merge = s.merge := rfl
@[simp] theorem State.setPending_stager (s : State) (x : List Instr) : (s.setPending x).stager = s.stager := rfl
@[simp] theorem State.setPending_commit (s : State) (x : List Instr) : (s.setPending x).commit = s.commit := rfl
@[simp] theorem State.setPending_lane (s : State) (x : List Instr) : (s.setPending x).lane = s.lane := rfl
@[simp] theorem State.setPending_jrn (s : State) (x : List Instr) : (s.setPending x).jrn = s.jrn := rfl
@[simp] theorem State.setPending_cmd (s : State) (x : List Instr) : (s.setPending x).cmd = s.cmd := rfl
@[simp] theorem State.setPending_ntc (s : State) (x : List Instr) : (s.setPending x).ntc = s.ntc := rfl
@[simp] theorem State.setPending_img (s : State) (x : List Instr) : (s.setPending x).img = s.img := rfl

@[simp] theorem State.markDue_pending (s : State) : s.markDue.pending = s.pending := rfl
@[simp] theorem State.markDue_resetAsserted (s : State) : s.markDue.resetAsserted = s.resetAsserted := rfl
@[simp] theorem State.markDue_cbStraps (s : State) : s.markDue.cbStraps = s.cbStraps := rfl
@[simp] theorem State.markDue_wallUs (s : State) : s.markDue.wallUs = s.wallUs := rfl
@[simp] theorem State.markDue_freeIdx (s : State) : s.markDue.freeIdx = s.freeIdx := rfl
@[simp] theorem State.markDue_path (s : State) : s.markDue.path = s.path := rfl
@[simp] theorem State.markDue_regions (s : State) : s.markDue.regions = s.regions := rfl
@[simp] theorem State.markDue_dir (s : State) : s.markDue.dir = s.dir := rfl
@[simp] theorem State.markDue_ovr (s : State) : s.markDue.ovr = s.ovr := rfl
@[simp] theorem State.markDue_front (s : State) : s.markDue.front = s.front := rfl
@[simp] theorem State.markDue_merge (s : State) : s.markDue.merge = s.merge := rfl
@[simp] theorem State.markDue_stager (s : State) : s.markDue.stager = s.stager := rfl
@[simp] theorem State.markDue_commit (s : State) : s.markDue.commit = s.commit := rfl
@[simp] theorem State.markDue_lane (s : State) : s.markDue.lane = s.lane := rfl
@[simp] theorem State.markDue_jrn (s : State) : s.markDue.jrn = s.jrn := rfl
@[simp] theorem State.markDue_cmd (s : State) : s.markDue.cmd = s.cmd := rfl
@[simp] theorem State.markDue_img (s : State) : s.markDue.img = s.img := rfl
@[simp] theorem State.markDue_ntc (s : State) : s.markDue.ntc = { s.ntc with due := true } := rfl

@[simp] theorem State.setChan_pending (s : State) (i : Nat) (f : Chan → Chan) : (s.setChan i f).pending = s.pending := rfl
@[simp] theorem State.setChan_resetAsserted (s : State) (i : Nat) (f : Chan → Chan) : (s.setChan i f).resetAsserted = s.resetAsserted := rfl
@[simp] theorem State.setChan_cbStraps (s : State) (i : Nat) (f : Chan → Chan) : (s.setChan i f).cbStraps = s.cbStraps := rfl
@[simp] theorem State.setChan_wallUs (s : State) (i : Nat) (f : Chan → Chan) : (s.setChan i f).wallUs = s.wallUs := rfl
@[simp] theorem State.setChan_freeIdx (s : State) (i : Nat) (f : Chan → Chan) : (s.setChan i f).freeIdx = s.freeIdx := rfl
@[simp] theorem State.setChan_path (s : State) (i : Nat) (f : Chan → Chan) : (s.setChan i f).path = s.path := rfl
@[simp] theorem State.setChan_regions (s : State) (i : Nat) (f : Chan → Chan) : (s.setChan i f).regions = s.regions := rfl
@[simp] theorem State.setChan_dir (s : State) (i : Nat) (f : Chan → Chan) : (s.setChan i f).dir = s.dir := rfl
@[simp] theorem State.setChan_ovr (s : State) (i : Nat) (f : Chan → Chan) : (s.setChan i f).ovr = s.ovr := rfl
@[simp] theorem State.setChan_merge (s : State) (i : Nat) (f : Chan → Chan) : (s.setChan i f).merge = s.merge := rfl
@[simp] theorem State.setChan_stager (s : State) (i : Nat) (f : Chan → Chan) : (s.setChan i f).stager = s.stager := rfl
@[simp] theorem State.setChan_commit (s : State) (i : Nat) (f : Chan → Chan) : (s.setChan i f).commit = s.commit := rfl
@[simp] theorem State.setChan_lane (s : State) (i : Nat) (f : Chan → Chan) : (s.setChan i f).lane = s.lane := rfl
@[simp] theorem State.setChan_jrn (s : State) (i : Nat) (f : Chan → Chan) : (s.setChan i f).jrn = s.jrn := rfl
@[simp] theorem State.setChan_cmd (s : State) (i : Nat) (f : Chan → Chan) : (s.setChan i f).cmd = s.cmd := rfl
@[simp] theorem State.setChan_ntc (s : State) (i : Nat) (f : Chan → Chan) : (s.setChan i f).ntc = s.ntc := rfl
@[simp] theorem State.setChan_img (s : State) (i : Nat) (f : Chan → Chan) : (s.setChan i f).img = s.img := rfl
@[simp] theorem State.setChan_front (s : State) (i : Nat) (f : Chan → Chan) :
    (s.setChan i f).front = { s.front with chans := s.front.chans.modify i f } := rfl

@[simp] theorem State.setDirAt_pending (s : State) (p : PointNo) (f : DirEntry → DirEntry) : (s.setDirAt p f).pending = s.pending := rfl
@[simp] theorem State.setDirAt_resetAsserted (s : State) (p : PointNo) (f : DirEntry → DirEntry) : (s.setDirAt p f).resetAsserted = s.resetAsserted := rfl
@[simp] theorem State.setDirAt_cbStraps (s : State) (p : PointNo) (f : DirEntry → DirEntry) : (s.setDirAt p f).cbStraps = s.cbStraps := rfl
@[simp] theorem State.setDirAt_wallUs (s : State) (p : PointNo) (f : DirEntry → DirEntry) : (s.setDirAt p f).wallUs = s.wallUs := rfl
@[simp] theorem State.setDirAt_freeIdx (s : State) (p : PointNo) (f : DirEntry → DirEntry) : (s.setDirAt p f).freeIdx = s.freeIdx := rfl
@[simp] theorem State.setDirAt_path (s : State) (p : PointNo) (f : DirEntry → DirEntry) : (s.setDirAt p f).path = s.path := rfl
@[simp] theorem State.setDirAt_regions (s : State) (p : PointNo) (f : DirEntry → DirEntry) : (s.setDirAt p f).regions = s.regions := rfl
@[simp] theorem State.setDirAt_ovr (s : State) (p : PointNo) (f : DirEntry → DirEntry) : (s.setDirAt p f).ovr = s.ovr := rfl
@[simp] theorem State.setDirAt_front (s : State) (p : PointNo) (f : DirEntry → DirEntry) : (s.setDirAt p f).front = s.front := rfl
@[simp] theorem State.setDirAt_merge (s : State) (p : PointNo) (f : DirEntry → DirEntry) : (s.setDirAt p f).merge = s.merge := rfl
@[simp] theorem State.setDirAt_stager (s : State) (p : PointNo) (f : DirEntry → DirEntry) : (s.setDirAt p f).stager = s.stager := rfl
@[simp] theorem State.setDirAt_commit (s : State) (p : PointNo) (f : DirEntry → DirEntry) : (s.setDirAt p f).commit = s.commit := rfl
@[simp] theorem State.setDirAt_lane (s : State) (p : PointNo) (f : DirEntry → DirEntry) : (s.setDirAt p f).lane = s.lane := rfl
@[simp] theorem State.setDirAt_jrn (s : State) (p : PointNo) (f : DirEntry → DirEntry) : (s.setDirAt p f).jrn = s.jrn := rfl
@[simp] theorem State.setDirAt_cmd (s : State) (p : PointNo) (f : DirEntry → DirEntry) : (s.setDirAt p f).cmd = s.cmd := rfl
@[simp] theorem State.setDirAt_ntc (s : State) (p : PointNo) (f : DirEntry → DirEntry) : (s.setDirAt p f).ntc = s.ntc := rfl
@[simp] theorem State.setDirAt_img (s : State) (p : PointNo) (f : DirEntry → DirEntry) : (s.setDirAt p f).img = s.img := rfl
@[simp] theorem State.setDirAt_dir (s : State) (p : PointNo) (f : DirEntry → DirEntry) :
    (s.setDirAt p f).dir = s.dir.modify p.toNat f := rfl

@[simp] theorem State.setWall_pending (n : Nat) (s : State) : (s.setWall n).pending = s.pending := rfl
@[simp] theorem State.setWall_resetAsserted (n : Nat) (s : State) : (s.setWall n).resetAsserted = s.resetAsserted := rfl
@[simp] theorem State.setWall_cbStraps (n : Nat) (s : State) : (s.setWall n).cbStraps = s.cbStraps := rfl
@[simp] theorem State.setWall_wallUs (n : Nat) (s : State) : (s.setWall n).wallUs = n := rfl
@[simp] theorem State.setWall_freeIdx (n : Nat) (s : State) : (s.setWall n).freeIdx = s.freeIdx := rfl
@[simp] theorem State.setWall_path (n : Nat) (s : State) : (s.setWall n).path = s.path := rfl
@[simp] theorem State.setWall_regions (n : Nat) (s : State) : (s.setWall n).regions = s.regions := rfl
@[simp] theorem State.setWall_dir (n : Nat) (s : State) : (s.setWall n).dir = s.dir := rfl
@[simp] theorem State.setWall_ovr (n : Nat) (s : State) : (s.setWall n).ovr = s.ovr := rfl
@[simp] theorem State.setWall_front (n : Nat) (s : State) : (s.setWall n).front = s.front := rfl
@[simp] theorem State.setWall_merge (n : Nat) (s : State) : (s.setWall n).merge = s.merge := rfl
@[simp] theorem State.setWall_stager (n : Nat) (s : State) : (s.setWall n).stager = s.stager := rfl
@[simp] theorem State.setWall_commit (n : Nat) (s : State) : (s.setWall n).commit = s.commit := rfl
@[simp] theorem State.setWall_lane (n : Nat) (s : State) : (s.setWall n).lane = s.lane := rfl
@[simp] theorem State.setWall_jrn (n : Nat) (s : State) : (s.setWall n).jrn = s.jrn := rfl
@[simp] theorem State.setWall_cmd (n : Nat) (s : State) : (s.setWall n).cmd = s.cmd := rfl
@[simp] theorem State.setWall_ntc (n : Nat) (s : State) : (s.setWall n).ntc = s.ntc := rfl
@[simp] theorem State.setWall_img (n : Nat) (s : State) : (s.setWall n).img = s.img := rfl

end Sys2Proof.Machine
end

