-- ==== Sys2Proof/Laws/Frames.lean ====
section
/-! SUPPORT. What each shared operation leaves unchanged. -/

namespace Sys2Proof.Machine

/-- A projection that every step of a fold keeps is kept by the fold. -/
theorem foldl_keeps {α β γ : Type} (g : β → γ) (f : β → α → β) (h : ∀ s x, g (f s x) = g s) (l : List α) (s : β) :
    g (l.foldl f s) = g s := by
  induction l generalizing s with
  | nil => rfl
  | cons x xs ih => rw [List.foldl_cons, ih, h]

@[simp] theorem genRead_frame (o : Origin) (a n : Nat) (s : State) :
    (genRead o a n s).pending = s.pending ∧
    (genRead o a n s).resetAsserted = s.resetAsserted ∧
    (genRead o a n s).cbStraps = s.cbStraps ∧
    (genRead o a n s).wallUs = s.wallUs ∧
    (genRead o a n s).freeIdx = s.freeIdx ∧
    (genRead o a n s).regions = s.regions ∧
    (genRead o a n s).dir = s.dir ∧
    (genRead o a n s).ovr = s.ovr ∧
    (genRead o a n s).front = s.front ∧
    (genRead o a n s).merge = s.merge ∧
    (genRead o a n s).stager = s.stager ∧
    (genRead o a n s).commit = s.commit ∧
    (genRead o a n s).lane = s.lane ∧
    (genRead o a n s).jrn = s.jrn ∧
    (genRead o a n s).cmd = s.cmd ∧
    (genRead o a n s).ntc = s.ntc ∧
    (genRead o a n s).img = s.img := by
  simp [genRead]

@[simp] theorem genWrite_frame (o : Origin) (a : Nat) (bs : List Byte) (s : State) :
    (genWrite o a bs s).pending = s.pending ∧
    (genWrite o a bs s).resetAsserted = s.resetAsserted ∧
    (genWrite o a bs s).cbStraps = s.cbStraps ∧
    (genWrite o a bs s).wallUs = s.wallUs ∧
    (genWrite o a bs s).freeIdx = s.freeIdx ∧
    (genWrite o a bs s).regions = s.regions ∧
    (genWrite o a bs s).dir = s.dir ∧
    (genWrite o a bs s).ovr = s.ovr ∧
    (genWrite o a bs s).front = s.front ∧
    (genWrite o a bs s).merge = s.merge ∧
    (genWrite o a bs s).stager = s.stager ∧
    (genWrite o a bs s).commit = s.commit ∧
    (genWrite o a bs s).lane = s.lane ∧
    (genWrite o a bs s).jrn = s.jrn ∧
    (genWrite o a bs s).cmd = s.cmd ∧
    (genWrite o a bs s).ntc = s.ntc ∧
    (genWrite o a bs s).img = s.img := by
  simp [genWrite]

@[simp] theorem genMasked_frame (o : Origin) (a : Nat) (bs : List Byte) (m : List Bool) (s : State) :
    (genMasked o a bs m s).pending = s.pending ∧
    (genMasked o a bs m s).resetAsserted = s.resetAsserted ∧
    (genMasked o a bs m s).cbStraps = s.cbStraps ∧
    (genMasked o a bs m s).wallUs = s.wallUs ∧
    (genMasked o a bs m s).freeIdx = s.freeIdx ∧
    (genMasked o a bs m s).regions = s.regions ∧
    (genMasked o a bs m s).dir = s.dir ∧
    (genMasked o a bs m s).ovr = s.ovr ∧
    (genMasked o a bs m s).front = s.front ∧
    (genMasked o a bs m s).merge = s.merge ∧
    (genMasked o a bs m s).stager = s.stager ∧
    (genMasked o a bs m s).commit = s.commit ∧
    (genMasked o a bs m s).lane = s.lane ∧
    (genMasked o a bs m s).jrn = s.jrn ∧
    (genMasked o a bs m s).cmd = s.cmd ∧
    (genMasked o a bs m s).ntc = s.ntc ∧
    (genMasked o a bs m s).img = s.img := by
  simp [genMasked]

@[simp] theorem writeNotice_frame (g : Regions) (n : Notice) (s : State) :
    (writeNotice g n s).pending = s.pending ∧
    (writeNotice g n s).resetAsserted = s.resetAsserted ∧
    (writeNotice g n s).cbStraps = s.cbStraps ∧
    (writeNotice g n s).wallUs = s.wallUs ∧
    (writeNotice g n s).freeIdx = s.freeIdx ∧
    (writeNotice g n s).regions = s.regions ∧
    (writeNotice g n s).dir = s.dir ∧
    (writeNotice g n s).ovr = s.ovr ∧
    (writeNotice g n s).front = s.front ∧
    (writeNotice g n s).merge = s.merge ∧
    (writeNotice g n s).stager = s.stager ∧
    (writeNotice g n s).commit = s.commit ∧
    (writeNotice g n s).lane = s.lane ∧
    (writeNotice g n s).jrn = s.jrn ∧
    (writeNotice g n s).cmd = s.cmd ∧
    (writeNotice g n s).img = s.img := by
  simp [writeNotice]

@[simp] theorem discardNotice_frame (s : State) :
    (discardNotice s).pending = s.pending ∧
    (discardNotice s).resetAsserted = s.resetAsserted ∧
    (discardNotice s).cbStraps = s.cbStraps ∧
    (discardNotice s).wallUs = s.wallUs ∧
    (discardNotice s).freeIdx = s.freeIdx ∧
    (discardNotice s).path = s.path ∧
    (discardNotice s).regions = s.regions ∧
    (discardNotice s).dir = s.dir ∧
    (discardNotice s).ovr = s.ovr ∧
    (discardNotice s).front = s.front ∧
    (discardNotice s).merge = s.merge ∧
    (discardNotice s).stager = s.stager ∧
    (discardNotice s).commit = s.commit ∧
    (discardNotice s).lane = s.lane ∧
    (discardNotice s).jrn = s.jrn ∧
    (discardNotice s).cmd = s.cmd ∧
    (discardNotice s).img = s.img := by
  simp [discardNotice]

@[simp] theorem bufferNotice_frame (n : Notice) (s : State) :
    (bufferNotice n s).pending = s.pending ∧
    (bufferNotice n s).resetAsserted = s.resetAsserted ∧
    (bufferNotice n s).cbStraps = s.cbStraps ∧
    (bufferNotice n s).wallUs = s.wallUs ∧
    (bufferNotice n s).freeIdx = s.freeIdx ∧
    (bufferNotice n s).path = s.path ∧
    (bufferNotice n s).regions = s.regions ∧
    (bufferNotice n s).dir = s.dir ∧
    (bufferNotice n s).ovr = s.ovr ∧
    (bufferNotice n s).front = s.front ∧
    (bufferNotice n s).merge = s.merge ∧
    (bufferNotice n s).stager = s.stager ∧
    (bufferNotice n s).commit = s.commit ∧
    (bufferNotice n s).lane = s.lane ∧
    (bufferNotice n s).jrn = s.jrn ∧
    (bufferNotice n s).cmd = s.cmd ∧
    (bufferNotice n s).img = s.img := by
  simp [bufferNotice]

@[simp] theorem post_frame (n : Notice) (s : State) :
    (post n s).pending = s.pending ∧
    (post n s).resetAsserted = s.resetAsserted ∧
    (post n s).cbStraps = s.cbStraps ∧
    (post n s).wallUs = s.wallUs ∧
    (post n s).freeIdx = s.freeIdx ∧
    (post n s).regions = s.regions ∧
    (post n s).dir = s.dir ∧
    (post n s).ovr = s.ovr ∧
    (post n s).front = s.front ∧
    (post n s).merge = s.merge ∧
    (post n s).stager = s.stager ∧
    (post n s).commit = s.commit ∧
    (post n s).lane = s.lane ∧
    (post n s).jrn = s.jrn ∧
    (post n s).cmd = s.cmd ∧
    (post n s).img = s.img := by
  unfold post
  repeat' split
  all_goals first | (simp; done) | (split <;> simp)

@[simp] theorem postLane_frame (b : NBody) (s : State) :
    (postLane b s).pending = s.pending ∧
    (postLane b s).resetAsserted = s.resetAsserted ∧
    (postLane b s).cbStraps = s.cbStraps ∧
    (postLane b s).wallUs = s.wallUs ∧
    (postLane b s).freeIdx = s.freeIdx ∧
    (postLane b s).regions = s.regions ∧
    (postLane b s).dir = s.dir ∧
    (postLane b s).ovr = s.ovr ∧
    (postLane b s).front = s.front ∧
    (postLane b s).merge = s.merge ∧
    (postLane b s).stager = s.stager ∧
    (postLane b s).commit = s.commit ∧
    (postLane b s).lane = s.lane ∧
    (postLane b s).jrn = s.jrn ∧
    (postLane b s).cmd = s.cmd ∧
    (postLane b s).img = s.img := by
  simp [postLane]

@[simp] theorem drainOverflow_frame (g : Regions) (l : List Notice) (s : State) :
    (drainOverflow g l s).pending = s.pending ∧
    (drainOverflow g l s).resetAsserted = s.resetAsserted ∧
    (drainOverflow g l s).cbStraps = s.cbStraps ∧
    (drainOverflow g l s).wallUs = s.wallUs ∧
    (drainOverflow g l s).freeIdx = s.freeIdx ∧
    (drainOverflow g l s).regions = s.regions ∧
    (drainOverflow g l s).dir = s.dir ∧
    (drainOverflow g l s).ovr = s.ovr ∧
    (drainOverflow g l s).front = s.front ∧
    (drainOverflow g l s).merge = s.merge ∧
    (drainOverflow g l s).stager = s.stager ∧
    (drainOverflow g l s).commit = s.commit ∧
    (drainOverflow g l s).lane = s.lane ∧
    (drainOverflow g l s).jrn = s.jrn ∧
    (drainOverflow g l s).cmd = s.cmd ∧
    (drainOverflow g l s).img = s.img := by
  induction l generalizing s with
  | nil => simp [drainOverflow]
  | cons n rest ih =>
    unfold drainOverflow
    split
    · simp [ih]
    · simp

@[simp] theorem setLane_frame (l : LaneState) (s : State) :
    (setLane l s).pending = s.pending ∧
    (setLane l s).resetAsserted = s.resetAsserted ∧
    (setLane l s).cbStraps = s.cbStraps ∧
    (setLane l s).wallUs = s.wallUs ∧
    (setLane l s).freeIdx = s.freeIdx ∧
    (setLane l s).path = s.path ∧
    (setLane l s).regions = s.regions ∧
    (setLane l s).dir = s.dir ∧
    (setLane l s).ovr = s.ovr ∧
    (setLane l s).front = s.front ∧
    (setLane l s).merge = s.merge ∧
    (setLane l s).stager = s.stager ∧
    (setLane l s).commit = s.commit ∧
    (setLane l s).jrn = s.jrn ∧
    (setLane l s).cmd = s.cmd ∧
    (setLane l s).img = s.img := by
  simp [setLane]

@[simp] theorem holdOn_frame (w : HoldReason) (s : State) :
    (holdOn w s).pending = s.pending ∧
    (holdOn w s).resetAsserted = s.resetAsserted ∧
    (holdOn w s).cbStraps = s.cbStraps ∧
    (holdOn w s).wallUs = s.wallUs ∧
    (holdOn w s).freeIdx = s.freeIdx ∧
    (holdOn w s).regions = s.regions ∧
    (holdOn w s).dir = s.dir ∧
    (holdOn w s).ovr = s.ovr ∧
    (holdOn w s).front = s.front ∧
    (holdOn w s).merge = s.merge ∧
    (holdOn w s).stager = s.stager ∧
    (holdOn w s).commit = s.commit ∧
    (holdOn w s).jrn = s.jrn ∧
    (holdOn w s).cmd = s.cmd ∧
    (holdOn w s).img = s.img := by
  unfold holdOn
  repeat' split
  all_goals first | (simp; done) | (split <;> simp)

@[simp] theorem holdOff_frame (w : HoldReason) (s : State) :
    (holdOff w s).pending = s.pending ∧
    (holdOff w s).resetAsserted = s.resetAsserted ∧
    (holdOff w s).cbStraps = s.cbStraps ∧
    (holdOff w s).wallUs = s.wallUs ∧
    (holdOff w s).freeIdx = s.freeIdx ∧
    (holdOff w s).path = s.path ∧
    (holdOff w s).regions = s.regions ∧
    (holdOff w s).dir = s.dir ∧
    (holdOff w s).ovr = s.ovr ∧
    (holdOff w s).front = s.front ∧
    (holdOff w s).merge = s.merge ∧
    (holdOff w s).stager = s.stager ∧
    (holdOff w s).commit = s.commit ∧
    (holdOff w s).jrn = s.jrn ∧
    (holdOff w s).cmd = s.cmd ∧
    (holdOff w s).img = s.img := by
  unfold holdOff
  repeat' split
  all_goals first | (simp; done) | (split <;> simp)

@[simp] theorem stopLane_frame (s : State) :
    (stopLane s).pending = s.pending ∧
    (stopLane s).resetAsserted = s.resetAsserted ∧
    (stopLane s).cbStraps = s.cbStraps ∧
    (stopLane s).wallUs = s.wallUs ∧
    (stopLane s).freeIdx = s.freeIdx ∧
    (stopLane s).path = s.path ∧
    (stopLane s).regions = s.regions ∧
    (stopLane s).dir = s.dir ∧
    (stopLane s).ovr = s.ovr ∧
    (stopLane s).front = s.front ∧
    (stopLane s).merge = s.merge ∧
    (stopLane s).stager = s.stager ∧
    (stopLane s).commit = s.commit ∧
    (stopLane s).jrn = s.jrn ∧
    (stopLane s).cmd = s.cmd ∧
    (stopLane s).img = s.img := by
  simp [stopLane]

@[simp] theorem endHistory_frame (s : State) :
    (endHistory s).pending = s.pending ∧
    (endHistory s).resetAsserted = s.resetAsserted ∧
    (endHistory s).cbStraps = s.cbStraps ∧
    (endHistory s).wallUs = s.wallUs ∧
    (endHistory s).freeIdx = s.freeIdx ∧
    (endHistory s).regions = s.regions ∧
    (endHistory s).dir = s.dir ∧
    (endHistory s).ovr = s.ovr ∧
    (endHistory s).front = s.front ∧
    (endHistory s).merge = s.merge ∧
    (endHistory s).stager = s.stager ∧
    (endHistory s).commit = s.commit ∧
    (endHistory s).jrn = s.jrn ∧
    (endHistory s).cmd = s.cmd ∧
    (endHistory s).img = s.img := by
  simp [endHistory]

@[simp] theorem endTest_frame (s : State) :
    (endTest s).pending = s.pending ∧
    (endTest s).resetAsserted = s.resetAsserted ∧
    (endTest s).cbStraps = s.cbStraps ∧
    (endTest s).wallUs = s.wallUs ∧
    (endTest s).freeIdx = s.freeIdx ∧
    (endTest s).regions = s.regions ∧
    (endTest s).dir = s.dir ∧
    (endTest s).ovr = s.ovr ∧
    (endTest s).front = s.front ∧
    (endTest s).stager = s.stager ∧
    (endTest s).commit = s.commit ∧
    (endTest s).jrn = s.jrn ∧
    (endTest s).cmd = s.cmd ∧
    (endTest s).img = s.img := by
  simp only [endTest]
  split <;> simp

@[simp] theorem stopTimeTest_frame (s : State) :
    (stopTimeTest s).pending = s.pending ∧
    (stopTimeTest s).resetAsserted = s.resetAsserted ∧
    (stopTimeTest s).cbStraps = s.cbStraps ∧
    (stopTimeTest s).wallUs = s.wallUs ∧
    (stopTimeTest s).freeIdx = s.freeIdx ∧
    (stopTimeTest s).regions = s.regions ∧
    (stopTimeTest s).dir = s.dir ∧
    (stopTimeTest s).ovr = s.ovr ∧
    (stopTimeTest s).front = s.front ∧
    (stopTimeTest s).merge = s.merge ∧
    (stopTimeTest s).stager = s.stager ∧
    (stopTimeTest s).commit = s.commit ∧
    (stopTimeTest s).jrn = s.jrn ∧
    (stopTimeTest s).cmd = s.cmd ∧
    (stopTimeTest s).img = s.img := by
  unfold stopTimeTest
  repeat' split
  all_goals first | (simp; done) | (split <;> simp)

@[simp] theorem placeEntry_frame (g : Regions) (h : Handed) (s : State) :
    (placeEntry g h s).pending = s.pending ∧
    (placeEntry g h s).resetAsserted = s.resetAsserted ∧
    (placeEntry g h s).cbStraps = s.cbStraps ∧
    (placeEntry g h s).wallUs = s.wallUs ∧
    (placeEntry g h s).freeIdx = s.freeIdx ∧
    (placeEntry g h s).regions = s.regions ∧
    (placeEntry g h s).dir = s.dir ∧
    (placeEntry g h s).ovr = s.ovr ∧
    (placeEntry g h s).front = s.front ∧
    (placeEntry g h s).merge = s.merge ∧
    (placeEntry g h s).stager = s.stager ∧
    (placeEntry g h s).commit = s.commit ∧
    (placeEntry g h s).lane = s.lane ∧
    (placeEntry g h s).cmd = s.cmd ∧
    (placeEntry g h s).ntc = s.ntc ∧
    (placeEntry g h s).img = s.img := by
  simp [placeEntry]

@[simp] theorem pumpJrn_frame (g : Regions) (l : List Handed) (s : State) :
    (pumpJrn g l s).pending = s.pending ∧
    (pumpJrn g l s).resetAsserted = s.resetAsserted ∧
    (pumpJrn g l s).cbStraps = s.cbStraps ∧
    (pumpJrn g l s).wallUs = s.wallUs ∧
    (pumpJrn g l s).freeIdx = s.freeIdx ∧
    (pumpJrn g l s).regions = s.regions ∧
    (pumpJrn g l s).dir = s.dir ∧
    (pumpJrn g l s).ovr = s.ovr ∧
    (pumpJrn g l s).front = s.front ∧
    (pumpJrn g l s).merge = s.merge ∧
    (pumpJrn g l s).stager = s.stager ∧
    (pumpJrn g l s).commit = s.commit ∧
    (pumpJrn g l s).lane = s.lane ∧
    (pumpJrn g l s).cmd = s.cmd ∧
    (pumpJrn g l s).ntc = s.ntc ∧
    (pumpJrn g l s).img = s.img := by
  induction l generalizing s with
  | nil => simp [pumpJrn]
  | cons n rest ih =>
    unfold pumpJrn
    split
    · simp
    · simp [ih]

@[simp] theorem handIn_frame (h : Handed) (s : State) :
    (handIn h s).pending = s.pending ∧
    (handIn h s).resetAsserted = s.resetAsserted ∧
    (handIn h s).cbStraps = s.cbStraps ∧
    (handIn h s).wallUs = s.wallUs ∧
    (handIn h s).freeIdx = s.freeIdx ∧
    (handIn h s).regions = s.regions ∧
    (handIn h s).dir = s.dir ∧
    (handIn h s).ovr = s.ovr ∧
    (handIn h s).front = s.front ∧
    (handIn h s).merge = s.merge ∧
    (handIn h s).stager = s.stager ∧
    (handIn h s).commit = s.commit ∧
    (handIn h s).lane = s.lane ∧
    (handIn h s).cmd = s.cmd ∧
    (handIn h s).ntc = s.ntc ∧
    (handIn h s).img = s.img := by
  unfold handIn
  repeat' split
  all_goals first | (simp; done) | (split <;> simp)

@[simp] theorem handLoose_frame (i : Nat) (pos : Pos) (e : JEntry) (s : State) :
    (handLoose i pos e s).pending = s.pending ∧
    (handLoose i pos e s).resetAsserted = s.resetAsserted ∧
    (handLoose i pos e s).cbStraps = s.cbStraps ∧
    (handLoose i pos e s).wallUs = s.wallUs ∧
    (handLoose i pos e s).freeIdx = s.freeIdx ∧
    (handLoose i pos e s).regions = s.regions ∧
    (handLoose i pos e s).dir = s.dir ∧
    (handLoose i pos e s).ovr = s.ovr ∧
    (handLoose i pos e s).merge = s.merge ∧
    (handLoose i pos e s).stager = s.stager ∧
    (handLoose i pos e s).commit = s.commit ∧
    (handLoose i pos e s).lane = s.lane ∧
    (handLoose i pos e s).cmd = s.cmd ∧
    (handLoose i pos e s).ntc = s.ntc ∧
    (handLoose i pos e s).img = s.img := by
  unfold handLoose
  repeat' split
  all_goals first | (simp; done) | (split <;> simp)

@[simp] theorem moveCursor_frame (s : State) (i : Nat) :
    (moveCursor s i).pending = s.pending ∧
    (moveCursor s i).resetAsserted = s.resetAsserted ∧
    (moveCursor s i).cbStraps = s.cbStraps ∧
    (moveCursor s i).wallUs = s.wallUs ∧
    (moveCursor s i).freeIdx = s.freeIdx ∧
    (moveCursor s i).path = s.path ∧
    (moveCursor s i).regions = s.regions ∧
    (moveCursor s i).dir = s.dir ∧
    (moveCursor s i).ovr = s.ovr ∧
    (moveCursor s i).merge = s.merge ∧
    (moveCursor s i).stager = s.stager ∧
    (moveCursor s i).commit = s.commit ∧
    (moveCursor s i).lane = s.lane ∧
    (moveCursor s i).jrn = s.jrn ∧
    (moveCursor s i).cmd = s.cmd ∧
    (moveCursor s i).ntc = s.ntc ∧
    (moveCursor s i).img = s.img := by
  unfold moveCursor
  repeat' split
  all_goals first | (simp; done) | (split <;> simp)

@[simp] theorem moveCursors_frame (s : State) :
    (moveCursors s).pending = s.pending ∧
    (moveCursors s).resetAsserted = s.resetAsserted ∧
    (moveCursors s).cbStraps = s.cbStraps ∧
    (moveCursors s).wallUs = s.wallUs ∧
    (moveCursors s).freeIdx = s.freeIdx ∧
    (moveCursors s).path = s.path ∧
    (moveCursors s).regions = s.regions ∧
    (moveCursors s).dir = s.dir ∧
    (moveCursors s).ovr = s.ovr ∧
    (moveCursors s).merge = s.merge ∧
    (moveCursors s).stager = s.stager ∧
    (moveCursors s).commit = s.commit ∧
    (moveCursors s).lane = s.lane ∧
    (moveCursors s).jrn = s.jrn ∧
    (moveCursors s).cmd = s.cmd ∧
    (moveCursors s).ntc = s.ntc ∧
    (moveCursors s).img = s.img := by
  have h := foldl_keeps (fun u : State => (u.pending, u.resetAsserted, u.cbStraps, u.wallUs, u.freeIdx, u.path, u.regions, u.dir, u.ovr, u.merge, u.stager, u.commit, u.lane, u.jrn, u.cmd, u.ntc, u.img)) moveCursor (fun _ _ => by simp) (List.range s.front.chans.length) s
  simpa [moveCursors] using h

@[simp] theorem postDrained_frame (i : Nat) (c : Chan) (s : State) :
    (postDrained i c s).pending = s.pending ∧
    (postDrained i c s).resetAsserted = s.resetAsserted ∧
    (postDrained i c s).cbStraps = s.cbStraps ∧
    (postDrained i c s).wallUs = s.wallUs ∧
    (postDrained i c s).regions = s.regions ∧
    (postDrained i c s).dir = s.dir ∧
    (postDrained i c s).ovr = s.ovr ∧
    (postDrained i c s).front = s.front ∧
    (postDrained i c s).merge = s.merge ∧
    (postDrained i c s).stager = s.stager ∧
    (postDrained i c s).commit = s.commit ∧
    (postDrained i c s).lane = s.lane ∧
    (postDrained i c s).jrn = s.jrn ∧
    (postDrained i c s).cmd = s.cmd ∧
    (postDrained i c s).img = s.img := by
  unfold postDrained
  repeat' split
  all_goals first | (simp; done) | (split <;> simp)

@[simp] theorem recomputeChan_frame (s : State) (i : Nat) :
    (recomputeChan s i).pending = s.pending ∧
    (recomputeChan s i).resetAsserted = s.resetAsserted ∧
    (recomputeChan s i).cbStraps = s.cbStraps ∧
    (recomputeChan s i).wallUs = s.wallUs ∧
    (recomputeChan s i).regions = s.regions ∧
    (recomputeChan s i).dir = s.dir ∧
    (recomputeChan s i).ovr = s.ovr ∧
    (recomputeChan s i).merge = s.merge ∧
    (recomputeChan s i).stager = s.stager ∧
    (recomputeChan s i).commit = s.commit ∧
    (recomputeChan s i).lane = s.lane ∧
    (recomputeChan s i).jrn = s.jrn ∧
    (recomputeChan s i).cmd = s.cmd ∧
    (recomputeChan s i).img = s.img := by
  unfold recomputeChan
  repeat' split
  all_goals first | (simp; done) | (split <;> simp)

@[simp] theorem recomputeAll_frame (s : State) :
    (recomputeAll s).pending = s.pending ∧
    (recomputeAll s).resetAsserted = s.resetAsserted ∧
    (recomputeAll s).cbStraps = s.cbStraps ∧
    (recomputeAll s).wallUs = s.wallUs ∧
    (recomputeAll s).regions = s.regions ∧
    (recomputeAll s).dir = s.dir ∧
    (recomputeAll s).ovr = s.ovr ∧
    (recomputeAll s).merge = s.merge ∧
    (recomputeAll s).stager = s.stager ∧
    (recomputeAll s).commit = s.commit ∧
    (recomputeAll s).lane = s.lane ∧
    (recomputeAll s).jrn = s.jrn ∧
    (recomputeAll s).cmd = s.cmd ∧
    (recomputeAll s).img = s.img := by
  have h := foldl_keeps (fun u : State => (u.pending, u.resetAsserted, u.cbStraps, u.wallUs, u.regions, u.dir, u.ovr, u.merge, u.stager, u.commit, u.lane, u.jrn, u.cmd, u.img)) recomputeChan (fun _ _ => by simp) (List.range s.front.chans.length) s
  simpa [recomputeAll] using h

@[simp] theorem takeChecked_frame (i : Nat) (pos : Pos) (s : State) :
    (takeChecked i pos s).pending = s.pending ∧
    (takeChecked i pos s).resetAsserted = s.resetAsserted ∧
    (takeChecked i pos s).cbStraps = s.cbStraps ∧
    (takeChecked i pos s).wallUs = s.wallUs ∧
    (takeChecked i pos s).freeIdx = s.freeIdx ∧
    (takeChecked i pos s).path = s.path ∧
    (takeChecked i pos s).regions = s.regions ∧
    (takeChecked i pos s).dir = s.dir ∧
    (takeChecked i pos s).ovr = s.ovr ∧
    (takeChecked i pos s).merge = s.merge ∧
    (takeChecked i pos s).stager = s.stager ∧
    (takeChecked i pos s).commit = s.commit ∧
    (takeChecked i pos s).lane = s.lane ∧
    (takeChecked i pos s).jrn = s.jrn ∧
    (takeChecked i pos s).cmd = s.cmd ∧
    (takeChecked i pos s).ntc = s.ntc ∧
    (takeChecked i pos s).img = s.img := by
  simp [takeChecked]

@[simp] theorem rejectRecord_frame (i : Nat) (pos : Pos) (w : Reason) (pt : Option PointNo) (a : Option (BitVec 64)) (s : State) :
    (rejectRecord i pos w pt a s).pending = s.pending ∧
    (rejectRecord i pos w pt a s).resetAsserted = s.resetAsserted ∧
    (rejectRecord i pos w pt a s).cbStraps = s.cbStraps ∧
    (rejectRecord i pos w pt a s).wallUs = s.wallUs ∧
    (rejectRecord i pos w pt a s).freeIdx = s.freeIdx ∧
    (rejectRecord i pos w pt a s).regions = s.regions ∧
    (rejectRecord i pos w pt a s).dir = s.dir ∧
    (rejectRecord i pos w pt a s).ovr = s.ovr ∧
    (rejectRecord i pos w pt a s).merge = s.merge ∧
    (rejectRecord i pos w pt a s).stager = s.stager ∧
    (rejectRecord i pos w pt a s).commit = s.commit ∧
    (rejectRecord i pos w pt a s).lane = s.lane ∧
    (rejectRecord i pos w pt a s).cmd = s.cmd ∧
    (rejectRecord i pos w pt a s).img = s.img := by
  unfold rejectRecord
  repeat' split
  all_goals first | (simp; done) | (split <;> simp)

@[simp] theorem dropLate_frame (i : Nat) (c : Chan) (full : Bool) (r : Rec) (s : State) :
    (dropLate i c full r s).pending = s.pending ∧
    (dropLate i c full r s).resetAsserted = s.resetAsserted ∧
    (dropLate i c full r s).cbStraps = s.cbStraps ∧
    (dropLate i c full r s).wallUs = s.wallUs ∧
    (dropLate i c full r s).freeIdx = s.freeIdx ∧
    (dropLate i c full r s).regions = s.regions ∧
    (dropLate i c full r s).dir = s.dir ∧
    (dropLate i c full r s).ovr = s.ovr ∧
    (dropLate i c full r s).merge = s.merge ∧
    (dropLate i c full r s).stager = s.stager ∧
    (dropLate i c full r s).commit = s.commit ∧
    (dropLate i c full r s).lane = s.lane ∧
    (dropLate i c full r s).cmd = s.cmd ∧
    (dropLate i c full r s).img = s.img := by
  simp [dropLate]

@[simp] theorem lateRecord_frame (i : Nat) (r : Rec) (s : State) :
    (lateRecord i r s).pending = s.pending ∧
    (lateRecord i r s).resetAsserted = s.resetAsserted ∧
    (lateRecord i r s).cbStraps = s.cbStraps ∧
    (lateRecord i r s).wallUs = s.wallUs ∧
    (lateRecord i r s).freeIdx = s.freeIdx ∧
    (lateRecord i r s).regions = s.regions ∧
    (lateRecord i r s).dir = s.dir ∧
    (lateRecord i r s).ovr = s.ovr ∧
    (lateRecord i r s).merge = s.merge ∧
    (lateRecord i r s).commit = s.commit ∧
    (lateRecord i r s).lane = s.lane ∧
    (lateRecord i r s).cmd = s.cmd ∧
    (lateRecord i r s).img = s.img := by
  simp only [lateRecord]
  repeat' split
  all_goals simp

@[simp] theorem rejudgeChan_frame (s : State) (i : Nat) :
    (rejudgeChan s i).pending = s.pending ∧
    (rejudgeChan s i).resetAsserted = s.resetAsserted ∧
    (rejudgeChan s i).cbStraps = s.cbStraps ∧
    (rejudgeChan s i).wallUs = s.wallUs ∧
    (rejudgeChan s i).freeIdx = s.freeIdx ∧
    (rejudgeChan s i).regions = s.regions ∧
    (rejudgeChan s i).dir = s.dir ∧
    (rejudgeChan s i).ovr = s.ovr ∧
    (rejudgeChan s i).merge = s.merge ∧
    (rejudgeChan s i).commit = s.commit ∧
    (rejudgeChan s i).lane = s.lane ∧
    (rejudgeChan s i).cmd = s.cmd ∧
    (rejudgeChan s i).img = s.img := by
  unfold rejudgeChan
  repeat' split
  all_goals try simp
  all_goals
    have h := foldl_keeps (fun u : State => (u.pending, u.resetAsserted, u.cbStraps, u.wallUs, u.freeIdx, u.regions, u.dir, u.ovr, u.merge, u.commit, u.lane, u.cmd, u.img)) (fun u r => lateRecord i r (takeChecked i r.pos u)) (fun _ _ => by simp)
    simp only [Prod.mk.injEq] at h
    simp [h]

@[simp] theorem rejudgeAll_frame (s : State) :
    (rejudgeAll s).pending = s.pending ∧
    (rejudgeAll s).resetAsserted = s.resetAsserted ∧
    (rejudgeAll s).cbStraps = s.cbStraps ∧
    (rejudgeAll s).wallUs = s.wallUs ∧
    (rejudgeAll s).freeIdx = s.freeIdx ∧
    (rejudgeAll s).regions = s.regions ∧
    (rejudgeAll s).dir = s.dir ∧
    (rejudgeAll s).ovr = s.ovr ∧
    (rejudgeAll s).merge = s.merge ∧
    (rejudgeAll s).commit = s.commit ∧
    (rejudgeAll s).lane = s.lane ∧
    (rejudgeAll s).cmd = s.cmd ∧
    (rejudgeAll s).img = s.img := by
  have h := foldl_keeps (fun u : State => (u.pending, u.resetAsserted, u.cbStraps, u.wallUs, u.freeIdx, u.regions, u.dir, u.ovr, u.merge, u.commit, u.lane, u.cmd, u.img)) rejudgeChan (fun _ _ => by simp) (List.range s.front.chans.length) s
  simpa [rejudgeAll] using h

@[simp] theorem retimeRec_frame (i : Nat) (off : Int) (s : State) (r : Rec) :
    (retimeRec i off s r).pending = s.pending ∧
    (retimeRec i off s r).resetAsserted = s.resetAsserted ∧
    (retimeRec i off s r).cbStraps = s.cbStraps ∧
    (retimeRec i off s r).wallUs = s.wallUs ∧
    (retimeRec i off s r).freeIdx = s.freeIdx ∧
    (retimeRec i off s r).regions = s.regions ∧
    (retimeRec i off s r).dir = s.dir ∧
    (retimeRec i off s r).ovr = s.ovr ∧
    (retimeRec i off s r).merge = s.merge ∧
    (retimeRec i off s r).commit = s.commit ∧
    (retimeRec i off s r).lane = s.lane ∧
    (retimeRec i off s r).cmd = s.cmd ∧
    (retimeRec i off s r).img = s.img := by
  simp only [retimeRec]
  repeat' split
  all_goals simp

@[simp] theorem retimeChan_frame (b : BitVec 4) (off : Int) (s : State) (i : Nat) :
    (retimeChan b off s i).pending = s.pending ∧
    (retimeChan b off s i).resetAsserted = s.resetAsserted ∧
    (retimeChan b off s i).cbStraps = s.cbStraps ∧
    (retimeChan b off s i).wallUs = s.wallUs ∧
    (retimeChan b off s i).freeIdx = s.freeIdx ∧
    (retimeChan b off s i).regions = s.regions ∧
    (retimeChan b off s i).dir = s.dir ∧
    (retimeChan b off s i).ovr = s.ovr ∧
    (retimeChan b off s i).merge = s.merge ∧
    (retimeChan b off s i).commit = s.commit ∧
    (retimeChan b off s i).lane = s.lane ∧
    (retimeChan b off s i).cmd = s.cmd ∧
    (retimeChan b off s i).img = s.img := by
  unfold retimeChan
  repeat' split
  all_goals try simp
  all_goals
    have h := foldl_keeps (fun u : State => (u.pending, u.resetAsserted, u.cbStraps, u.wallUs, u.freeIdx, u.regions, u.dir, u.ovr, u.merge, u.commit, u.lane, u.cmd, u.img)) (retimeRec i off) (fun _ _ => by simp)
    simp only [Prod.mk.injEq] at h
    simp [h]

@[simp] theorem skewTransfer_frame (b : BitVec 4) (new : Word32) (s : State) :
    (skewTransfer b new s).pending = s.pending ∧
    (skewTransfer b new s).resetAsserted = s.resetAsserted ∧
    (skewTransfer b new s).cbStraps = s.cbStraps ∧
    (skewTransfer b new s).wallUs = s.wallUs ∧
    (skewTransfer b new s).freeIdx = s.freeIdx ∧
    (skewTransfer b new s).regions = s.regions ∧
    (skewTransfer b new s).dir = s.dir ∧
    (skewTransfer b new s).ovr = s.ovr ∧
    (skewTransfer b new s).merge = s.merge ∧
    (skewTransfer b new s).commit = s.commit ∧
    (skewTransfer b new s).lane = s.lane ∧
    (skewTransfer b new s).cmd = s.cmd ∧
    (skewTransfer b new s).img = s.img := by
  have h := foldl_keeps (fun u : State => (u.pending, u.resetAsserted, u.cbStraps, u.wallUs, u.freeIdx, u.regions, u.dir, u.ovr, u.merge, u.commit, u.lane, u.cmd, u.img)) (retimeChan b new.toInt) (fun _ _ => by simp)
  simp only [Prod.mk.injEq] at h
  simp only [skewTransfer]
  split <;> simp [h]

@[simp] theorem applySet_frame (s : State) (i : Nat) :
    (applySet s i).pending = s.pending ∧
    (applySet s i).resetAsserted = s.resetAsserted ∧
    (applySet s i).cbStraps = s.cbStraps ∧
    (applySet s i).wallUs = s.wallUs ∧
    (applySet s i).regions = s.regions ∧
    (applySet s i).dir = s.dir ∧
    (applySet s i).ovr = s.ovr ∧
    (applySet s i).merge = s.merge ∧
    (applySet s i).stager = s.stager ∧
    (applySet s i).commit = s.commit ∧
    (applySet s i).lane = s.lane ∧
    (applySet s i).jrn = s.jrn ∧
    (applySet s i).cmd = s.cmd ∧
    (applySet s i).img = s.img := by
  unfold applySet
  repeat' split
  all_goals (try simp)
  all_goals (split <;> simp)

@[simp] theorem applySets_frame (s : State) :
    (applySets s).pending = s.pending ∧
    (applySets s).resetAsserted = s.resetAsserted ∧
    (applySets s).cbStraps = s.cbStraps ∧
    (applySets s).wallUs = s.wallUs ∧
    (applySets s).regions = s.regions ∧
    (applySets s).dir = s.dir ∧
    (applySets s).ovr = s.ovr ∧
    (applySets s).merge = s.merge ∧
    (applySets s).stager = s.stager ∧
    (applySets s).commit = s.commit ∧
    (applySets s).lane = s.lane ∧
    (applySets s).jrn = s.jrn ∧
    (applySets s).cmd = s.cmd ∧
    (applySets s).img = s.img := by
  have h := foldl_keeps (fun u : State => (u.pending, u.resetAsserted, u.cbStraps, u.wallUs, u.regions, u.dir, u.ovr, u.merge, u.stager, u.commit, u.lane, u.jrn, u.cmd, u.img)) applySet (fun _ _ => by simp) (List.range s.front.chans.length) s
  simpa [applySets] using h

@[simp] theorem rejoin_frame (i : Nat) (t : Time) (s : State) :
    (rejoin i t s).pending = s.pending ∧
    (rejoin i t s).resetAsserted = s.resetAsserted ∧
    (rejoin i t s).cbStraps = s.cbStraps ∧
    (rejoin i t s).wallUs = s.wallUs ∧
    (rejoin i t s).freeIdx = s.freeIdx ∧
    (rejoin i t s).regions = s.regions ∧
    (rejoin i t s).dir = s.dir ∧
    (rejoin i t s).ovr = s.ovr ∧
    (rejoin i t s).merge = s.merge ∧
    (rejoin i t s).stager = s.stager ∧
    (rejoin i t s).commit = s.commit ∧
    (rejoin i t s).lane = s.lane ∧
    (rejoin i t s).jrn = s.jrn ∧
    (rejoin i t s).cmd = s.cmd ∧
    (rejoin i t s).img = s.img := by
  unfold rejoin
  repeat' split
  all_goals first | (simp; done) | (split <;> simp)

@[simp] theorem discardFetches_frame (k : Bool) (s : State) :
    (discardFetches k s).pending = s.pending ∧
    (discardFetches k s).resetAsserted = s.resetAsserted ∧
    (discardFetches k s).cbStraps = s.cbStraps ∧
    (discardFetches k s).wallUs = s.wallUs ∧
    (discardFetches k s).freeIdx = s.freeIdx ∧
    (discardFetches k s).path = s.path ∧
    (discardFetches k s).regions = s.regions ∧
    (discardFetches k s).dir = s.dir ∧
    (discardFetches k s).ovr = s.ovr ∧
    (discardFetches k s).merge = s.merge ∧
    (discardFetches k s).stager = s.stager ∧
    (discardFetches k s).commit = s.commit ∧
    (discardFetches k s).lane = s.lane ∧
    (discardFetches k s).jrn = s.jrn ∧
    (discardFetches k s).cmd = s.cmd ∧
    (discardFetches k s).ntc = s.ntc ∧
    (discardFetches k s).img = s.img := by
  simp [discardFetches]

@[simp] theorem anchorClear_frame (s : State) :
    (anchorClear s).pending = s.pending ∧
    (anchorClear s).resetAsserted = s.resetAsserted ∧
    (anchorClear s).cbStraps = s.cbStraps ∧
    (anchorClear s).wallUs = s.wallUs ∧
    (anchorClear s).freeIdx = s.freeIdx ∧
    (anchorClear s).path = s.path ∧
    (anchorClear s).regions = s.regions ∧
    (anchorClear s).dir = s.dir ∧
    (anchorClear s).ovr = s.ovr ∧
    (anchorClear s).front = s.front ∧
    (anchorClear s).merge = s.merge ∧
    (anchorClear s).stager = s.stager ∧
    (anchorClear s).commit = s.commit ∧
    (anchorClear s).jrn = s.jrn ∧
    (anchorClear s).cmd = s.cmd ∧
    (anchorClear s).img = s.img := by
  unfold anchorClear
  repeat' split
  all_goals first | (simp; done) | (split <;> simp)

@[simp] theorem starveReset_frame (s : State) :
    (starveReset s).pending = s.pending ∧
    (starveReset s).resetAsserted = s.resetAsserted ∧
    (starveReset s).cbStraps = s.cbStraps ∧
    (starveReset s).wallUs = s.wallUs ∧
    (starveReset s).freeIdx = s.freeIdx ∧
    (starveReset s).path = s.path ∧
    (starveReset s).regions = s.regions ∧
    (starveReset s).dir = s.dir ∧
    (starveReset s).ovr = s.ovr ∧
    (starveReset s).front = s.front ∧
    (starveReset s).stager = s.stager ∧
    (starveReset s).commit = s.commit ∧
    (starveReset s).lane = s.lane ∧
    (starveReset s).jrn = s.jrn ∧
    (starveReset s).cmd = s.cmd ∧
    (starveReset s).ntc = s.ntc ∧
    (starveReset s).img = s.img := by
  unfold starveReset
  repeat' split
  all_goals first | (simp; done) | (split <;> simp)

@[simp] theorem paceHold_frame (s : State) :
    (paceHold s).pending = s.pending ∧
    (paceHold s).resetAsserted = s.resetAsserted ∧
    (paceHold s).cbStraps = s.cbStraps ∧
    (paceHold s).wallUs = s.wallUs ∧
    (paceHold s).freeIdx = s.freeIdx ∧
    (paceHold s).path = s.path ∧
    (paceHold s).regions = s.regions ∧
    (paceHold s).dir = s.dir ∧
    (paceHold s).ovr = s.ovr ∧
    (paceHold s).front = s.front ∧
    (paceHold s).merge = s.merge ∧
    (paceHold s).stager = s.stager ∧
    (paceHold s).commit = s.commit ∧
    (paceHold s).jrn = s.jrn ∧
    (paceHold s).cmd = s.cmd ∧
    (paceHold s).ntc = s.ntc ∧
    (paceHold s).img = s.img := by
  unfold paceHold
  split <;> simp

@[simp] theorem laneTests_frame (s : State) :
    (laneTests s).pending = s.pending ∧
    (laneTests s).resetAsserted = s.resetAsserted ∧
    (laneTests s).cbStraps = s.cbStraps ∧
    (laneTests s).wallUs = s.wallUs ∧
    (laneTests s).freeIdx = s.freeIdx ∧
    (laneTests s).regions = s.regions ∧
    (laneTests s).dir = s.dir ∧
    (laneTests s).ovr = s.ovr ∧
    (laneTests s).front = s.front ∧
    (laneTests s).stager = s.stager ∧
    (laneTests s).commit = s.commit ∧
    (laneTests s).jrn = s.jrn ∧
    (laneTests s).cmd = s.cmd ∧
    (laneTests s).img = s.img := by
  simp [laneTests]

@[simp] theorem recomputeLive_frame (s : State) :
    (recomputeLive s).pending = s.pending ∧
    (recomputeLive s).resetAsserted = s.resetAsserted ∧
    (recomputeLive s).cbStraps = s.cbStraps ∧
    (recomputeLive s).wallUs = s.wallUs ∧
    (recomputeLive s).regions = s.regions ∧
    (recomputeLive s).dir = s.dir ∧
    (recomputeLive s).ovr = s.ovr ∧
    (recomputeLive s).merge = s.merge ∧
    (recomputeLive s).stager = s.stager ∧
    (recomputeLive s).commit = s.commit ∧
    (recomputeLive s).lane = s.lane ∧
    (recomputeLive s).jrn = s.jrn ∧
    (recomputeLive s).cmd = s.cmd ∧
    (recomputeLive s).img = s.img := by
  unfold recomputeLive
  repeat' split
  all_goals first | (simp; done) | (split <;> simp)

@[simp] theorem settle_frame (s : State) :
    (settle s).pending = s.pending ∧
    (settle s).resetAsserted = s.resetAsserted ∧
    (settle s).cbStraps = s.cbStraps ∧
    (settle s).wallUs = s.wallUs ∧
    (settle s).regions = s.regions ∧
    (settle s).dir = s.dir ∧
    (settle s).ovr = s.ovr ∧
    (settle s).stager = s.stager ∧
    (settle s).commit = s.commit ∧
    (settle s).jrn = s.jrn ∧
    (settle s).cmd = s.cmd ∧
    (settle s).img = s.img := by
  simp [settle]

@[simp] theorem settleKeep_frame (s : State) :
    (settleKeep s).pending = s.pending ∧
    (settleKeep s).resetAsserted = s.resetAsserted ∧
    (settleKeep s).cbStraps = s.cbStraps ∧
    (settleKeep s).wallUs = s.wallUs ∧
    (settleKeep s).regions = s.regions ∧
    (settleKeep s).dir = s.dir ∧
    (settleKeep s).ovr = s.ovr ∧
    (settleKeep s).stager = s.stager ∧
    (settleKeep s).commit = s.commit ∧
    (settleKeep s).jrn = s.jrn ∧
    (settleKeep s).cmd = s.cmd ∧
    (settleKeep s).img = s.img := by
  simp [settleKeep]

@[simp] theorem transferSettings_frame (s : State) :
    (transferSettings s).pending = s.pending ∧
    (transferSettings s).resetAsserted = s.resetAsserted ∧
    (transferSettings s).cbStraps = s.cbStraps ∧
    (transferSettings s).wallUs = s.wallUs ∧
    (transferSettings s).freeIdx = s.freeIdx ∧
    (transferSettings s).path = s.path ∧
    (transferSettings s).regions = s.regions ∧
    (transferSettings s).dir = s.dir ∧
    (transferSettings s).ovr = s.ovr ∧
    (transferSettings s).front = s.front ∧
    (transferSettings s).merge = s.merge ∧
    (transferSettings s).stager = s.stager ∧
    (transferSettings s).commit = s.commit ∧
    (transferSettings s).jrn = s.jrn ∧
    (transferSettings s).cmd = s.cmd ∧
    (transferSettings s).ntc = s.ntc ∧
    (transferSettings s).img = s.img := by
  simp [transferSettings]

@[simp] theorem transferSkew_frame (s : State) (k : Nat) :
    (transferSkew s k).pending = s.pending ∧
    (transferSkew s k).resetAsserted = s.resetAsserted ∧
    (transferSkew s k).cbStraps = s.cbStraps ∧
    (transferSkew s k).wallUs = s.wallUs ∧
    (transferSkew s k).freeIdx = s.freeIdx ∧
    (transferSkew s k).regions = s.regions ∧
    (transferSkew s k).dir = s.dir ∧
    (transferSkew s k).ovr = s.ovr ∧
    (transferSkew s k).merge = s.merge ∧
    (transferSkew s k).commit = s.commit ∧
    (transferSkew s k).lane = s.lane ∧
    (transferSkew s k).cmd = s.cmd ∧
    (transferSkew s k).img = s.img := by
  unfold transferSkew
  repeat' split
  all_goals first | (simp; done) | (split <;> simp)

@[simp] theorem transferSkews_frame (s : State) :
    (transferSkews s).pending = s.pending ∧
    (transferSkews s).resetAsserted = s.resetAsserted ∧
    (transferSkews s).cbStraps = s.cbStraps ∧
    (transferSkews s).wallUs = s.wallUs ∧
    (transferSkews s).freeIdx = s.freeIdx ∧
    (transferSkews s).regions = s.regions ∧
    (transferSkews s).dir = s.dir ∧
    (transferSkews s).ovr = s.ovr ∧
    (transferSkews s).merge = s.merge ∧
    (transferSkews s).commit = s.commit ∧
    (transferSkews s).cmd = s.cmd ∧
    (transferSkews s).img = s.img := by
  have h := foldl_keeps (fun u : State => (u.pending, u.resetAsserted, u.cbStraps, u.wallUs, u.freeIdx, u.regions, u.dir, u.ovr, u.merge, u.commit, u.cmd, u.img)) transferSkew (fun _ _ => by simp) (List.range 16) s
  simp only [Prod.mk.injEq] at h
  simp [transferSkews, h]

@[simp] theorem restoreOne_frame (s : State) (w : WriteRec) :
    (restoreOne s w).pending = s.pending ∧
    (restoreOne s w).resetAsserted = s.resetAsserted ∧
    (restoreOne s w).cbStraps = s.cbStraps ∧
    (restoreOne s w).wallUs = s.wallUs ∧
    (restoreOne s w).freeIdx = s.freeIdx ∧
    (restoreOne s w).regions = s.regions ∧
    (restoreOne s w).ovr = s.ovr ∧
    (restoreOne s w).front = s.front ∧
    (restoreOne s w).merge = s.merge ∧
    (restoreOne s w).stager = s.stager ∧
    (restoreOne s w).commit = s.commit ∧
    (restoreOne s w).lane = s.lane ∧
    (restoreOne s w).jrn = s.jrn ∧
    (restoreOne s w).cmd = s.cmd ∧
    (restoreOne s w).ntc = s.ntc ∧
    (restoreOne s w).img = s.img := by
  simp [restoreOne]

@[simp] theorem restoreAll_frame (ws : List WriteRec) (s : State) :
    (restoreAll ws s).pending = s.pending ∧
    (restoreAll ws s).resetAsserted = s.resetAsserted ∧
    (restoreAll ws s).cbStraps = s.cbStraps ∧
    (restoreAll ws s).wallUs = s.wallUs ∧
    (restoreAll ws s).freeIdx = s.freeIdx ∧
    (restoreAll ws s).regions = s.regions ∧
    (restoreAll ws s).ovr = s.ovr ∧
    (restoreAll ws s).front = s.front ∧
    (restoreAll ws s).merge = s.merge ∧
    (restoreAll ws s).stager = s.stager ∧
    (restoreAll ws s).commit = s.commit ∧
    (restoreAll ws s).lane = s.lane ∧
    (restoreAll ws s).jrn = s.jrn ∧
    (restoreAll ws s).cmd = s.cmd ∧
    (restoreAll ws s).ntc = s.ntc ∧
    (restoreAll ws s).img = s.img := by
  have h := foldl_keeps (fun u : State => (u.pending, u.resetAsserted, u.cbStraps, u.wallUs, u.freeIdx, u.regions, u.ovr, u.front, u.merge, u.stager, u.commit, u.lane, u.jrn, u.cmd, u.ntc, u.img)) restoreOne (fun _ _ => by simp) (ws) s
  simpa [restoreAll] using h

@[simp] theorem abortFlight_frame (s : State) :
    (abortFlight s).pending = s.pending ∧
    (abortFlight s).resetAsserted = s.resetAsserted ∧
    (abortFlight s).cbStraps = s.cbStraps ∧
    (abortFlight s).wallUs = s.wallUs ∧
    (abortFlight s).freeIdx = s.freeIdx ∧
    (abortFlight s).regions = s.regions ∧
    (abortFlight s).ovr = s.ovr ∧
    (abortFlight s).front = s.front ∧
    (abortFlight s).stager = s.stager ∧
    (abortFlight s).lane = s.lane ∧
    (abortFlight s).jrn = s.jrn ∧
    (abortFlight s).cmd = s.cmd ∧
    (abortFlight s).ntc = s.ntc ∧
    (abortFlight s).img = s.img := by
  unfold abortFlight
  repeat' split
  all_goals simp

@[simp] theorem failWalk_frame (s : State) :
    (failWalk s).pending = s.pending ∧
    (failWalk s).resetAsserted = s.resetAsserted ∧
    (failWalk s).cbStraps = s.cbStraps ∧
    (failWalk s).wallUs = s.wallUs ∧
    (failWalk s).freeIdx = s.freeIdx ∧
    (failWalk s).regions = s.regions ∧
    (failWalk s).ovr = s.ovr ∧
    (failWalk s).front = s.front ∧
    (failWalk s).merge = s.merge ∧
    (failWalk s).stager = s.stager ∧
    (failWalk s).commit = s.commit ∧
    (failWalk s).cmd = s.cmd ∧
    (failWalk s).ntc = s.ntc ∧
    (failWalk s).img = s.img := by
  unfold failWalk
  repeat' split
  all_goals (try simp)
  all_goals (split <;> simp)

@[simp] theorem failPass_frame (s : State) :
    (failPass s).pending = s.pending ∧
    (failPass s).resetAsserted = s.resetAsserted ∧
    (failPass s).cbStraps = s.cbStraps ∧
    (failPass s).wallUs = s.wallUs ∧
    (failPass s).freeIdx = s.freeIdx ∧
    (failPass s).regions = s.regions ∧
    (failPass s).dir = s.dir ∧
    (failPass s).ovr = s.ovr ∧
    (failPass s).front = s.front ∧
    (failPass s).merge = s.merge ∧
    (failPass s).stager = s.stager ∧
    (failPass s).commit = s.commit ∧
    (failPass s).lane = s.lane ∧
    (failPass s).jrn = s.jrn ∧
    (failPass s).cmd = s.cmd ∧
    (failPass s).ntc = s.ntc := by
  unfold failPass
  repeat' split
  all_goals first | (simp; done) | (split <;> simp)

@[simp] theorem enterFault_frame (c : FaultCode) (a : Addr) (s : State) :
    (enterFault c a s).pending = s.pending ∧
    (enterFault c a s).resetAsserted = s.resetAsserted ∧
    (enterFault c a s).cbStraps = s.cbStraps ∧
    (enterFault c a s).wallUs = s.wallUs ∧
    (enterFault c a s).freeIdx = s.freeIdx ∧
    (enterFault c a s).regions = s.regions ∧
    (enterFault c a s).ovr = s.ovr ∧
    (enterFault c a s).stager = s.stager ∧
    (enterFault c a s).cmd = s.cmd := by
  simp [enterFault]

@[simp] theorem beginSlot_frame (s : State) :
    (beginSlot s).pending = s.pending ∧
    (beginSlot s).resetAsserted = s.resetAsserted ∧
    (beginSlot s).cbStraps = s.cbStraps ∧
    (beginSlot s).wallUs = s.wallUs ∧
    (beginSlot s).freeIdx = s.freeIdx ∧
    (beginSlot s).regions = s.regions ∧
    (beginSlot s).dir = s.dir ∧
    (beginSlot s).ovr = s.ovr ∧
    (beginSlot s).front = s.front ∧
    (beginSlot s).merge = s.merge ∧
    (beginSlot s).stager = s.stager ∧
    (beginSlot s).commit = s.commit ∧
    (beginSlot s).lane = s.lane ∧
    (beginSlot s).jrn = s.jrn ∧
    (beginSlot s).ntc = s.ntc ∧
    (beginSlot s).img = s.img := by
  simp [beginSlot]

@[simp] theorem startPending_frame (s : State) :
    (startPending s).pending = s.pending ∧
    (startPending s).resetAsserted = s.resetAsserted ∧
    (startPending s).cbStraps = s.cbStraps ∧
    (startPending s).wallUs = s.wallUs ∧
    (startPending s).freeIdx = s.freeIdx ∧
    (startPending s).regions = s.regions ∧
    (startPending s).dir = s.dir ∧
    (startPending s).ovr = s.ovr ∧
    (startPending s).front = s.front ∧
    (startPending s).merge = s.merge ∧
    (startPending s).stager = s.stager ∧
    (startPending s).commit = s.commit ∧
    (startPending s).lane = s.lane ∧
    (startPending s).jrn = s.jrn ∧
    (startPending s).ntc = s.ntc ∧
    (startPending s).img = s.img := by
  unfold startPending
  repeat' split
  all_goals first | (simp; done) | (split <;> simp)

@[simp] theorem genResult_frame (r : Nat) (d : List Byte) (s : State) :
    (genResult r d s).pending = s.pending ∧
    (genResult r d s).resetAsserted = s.resetAsserted ∧
    (genResult r d s).cbStraps = s.cbStraps ∧
    (genResult r d s).wallUs = s.wallUs ∧
    (genResult r d s).freeIdx = s.freeIdx ∧
    (genResult r d s).regions = s.regions ∧
    (genResult r d s).dir = s.dir ∧
    (genResult r d s).ovr = s.ovr ∧
    (genResult r d s).front = s.front ∧
    (genResult r d s).merge = s.merge ∧
    (genResult r d s).stager = s.stager ∧
    (genResult r d s).commit = s.commit ∧
    (genResult r d s).lane = s.lane ∧
    (genResult r d s).jrn = s.jrn ∧
    (genResult r d s).cmd = s.cmd ∧
    (genResult r d s).ntc = s.ntc ∧
    (genResult r d s).img = s.img := by
  simp [genResult]

@[simp] theorem genOwner_frame (s : State) :
    (genOwner s).pending = s.pending ∧
    (genOwner s).resetAsserted = s.resetAsserted ∧
    (genOwner s).cbStraps = s.cbStraps ∧
    (genOwner s).wallUs = s.wallUs ∧
    (genOwner s).freeIdx = s.freeIdx ∧
    (genOwner s).regions = s.regions ∧
    (genOwner s).dir = s.dir ∧
    (genOwner s).ovr = s.ovr ∧
    (genOwner s).front = s.front ∧
    (genOwner s).merge = s.merge ∧
    (genOwner s).stager = s.stager ∧
    (genOwner s).commit = s.commit ∧
    (genOwner s).lane = s.lane ∧
    (genOwner s).jrn = s.jrn ∧
    (genOwner s).cmd = s.cmd ∧
    (genOwner s).ntc = s.ntc ∧
    (genOwner s).img = s.img := by
  simp [genOwner]

@[simp] theorem complete_frame (r : Nat) (d : List Byte) (s : State) :
    (complete r d s).pending = s.pending ∧
    (complete r d s).resetAsserted = s.resetAsserted ∧
    (complete r d s).cbStraps = s.cbStraps ∧
    (complete r d s).wallUs = s.wallUs ∧
    (complete r d s).freeIdx = s.freeIdx ∧
    (complete r d s).regions = s.regions ∧
    (complete r d s).dir = s.dir ∧
    (complete r d s).ovr = s.ovr ∧
    (complete r d s).front = s.front ∧
    (complete r d s).merge = s.merge ∧
    (complete r d s).stager = s.stager ∧
    (complete r d s).commit = s.commit ∧
    (complete r d s).lane = s.lane ∧
    (complete r d s).jrn = s.jrn ∧
    (complete r d s).img = s.img := by
  simp [complete]

@[simp] theorem badParam_frame (i : Nat) (s : State) :
    (badParam i s).pending = s.pending ∧
    (badParam i s).resetAsserted = s.resetAsserted ∧
    (badParam i s).cbStraps = s.cbStraps ∧
    (badParam i s).wallUs = s.wallUs ∧
    (badParam i s).freeIdx = s.freeIdx ∧
    (badParam i s).regions = s.regions ∧
    (badParam i s).dir = s.dir ∧
    (badParam i s).ovr = s.ovr ∧
    (badParam i s).front = s.front ∧
    (badParam i s).merge = s.merge ∧
    (badParam i s).stager = s.stager ∧
    (badParam i s).commit = s.commit ∧
    (badParam i s).lane = s.lane ∧
    (badParam i s).jrn = s.jrn ∧
    (badParam i s).img = s.img := by
  simp [badParam]

@[simp] theorem waitFor_frame (w : WaitCmd) (s : State) :
    (waitFor w s).pending = s.pending ∧
    (waitFor w s).resetAsserted = s.resetAsserted ∧
    (waitFor w s).cbStraps = s.cbStraps ∧
    (waitFor w s).wallUs = s.wallUs ∧
    (waitFor w s).freeIdx = s.freeIdx ∧
    (waitFor w s).path = s.path ∧
    (waitFor w s).regions = s.regions ∧
    (waitFor w s).dir = s.dir ∧
    (waitFor w s).ovr = s.ovr ∧
    (waitFor w s).front = s.front ∧
    (waitFor w s).merge = s.merge ∧
    (waitFor w s).stager = s.stager ∧
    (waitFor w s).commit = s.commit ∧
    (waitFor w s).lane = s.lane ∧
    (waitFor w s).jrn = s.jrn ∧
    (waitFor w s).ntc = s.ntc ∧
    (waitFor w s).img = s.img := by
  simp [waitFor]

@[simp] theorem rewriteLine_frame (l : LaneState) (s : State) (k : Nat) :
    (rewriteLine l s k).pending = s.pending ∧
    (rewriteLine l s k).resetAsserted = s.resetAsserted ∧
    (rewriteLine l s k).cbStraps = s.cbStraps ∧
    (rewriteLine l s k).wallUs = s.wallUs ∧
    (rewriteLine l s k).freeIdx = s.freeIdx ∧
    (rewriteLine l s k).regions = s.regions ∧
    (rewriteLine l s k).dir = s.dir ∧
    (rewriteLine l s k).ovr = s.ovr ∧
    (rewriteLine l s k).front = s.front ∧
    (rewriteLine l s k).merge = s.merge ∧
    (rewriteLine l s k).stager = s.stager ∧
    (rewriteLine l s k).commit = s.commit ∧
    (rewriteLine l s k).lane = s.lane ∧
    (rewriteLine l s k).jrn = s.jrn ∧
    (rewriteLine l s k).cmd = s.cmd ∧
    (rewriteLine l s k).img = s.img := by
  simp only [rewriteLine]
  split <;> simp

@[simp] theorem rewriteStatus_frame (l : LaneState) (s : State) :
    (rewriteStatus l s).pending = s.pending ∧
    (rewriteStatus l s).resetAsserted = s.resetAsserted ∧
    (rewriteStatus l s).cbStraps = s.cbStraps ∧
    (rewriteStatus l s).wallUs = s.wallUs ∧
    (rewriteStatus l s).freeIdx = s.freeIdx ∧
    (rewriteStatus l s).regions = s.regions ∧
    (rewriteStatus l s).dir = s.dir ∧
    (rewriteStatus l s).ovr = s.ovr ∧
    (rewriteStatus l s).front = s.front ∧
    (rewriteStatus l s).merge = s.merge ∧
    (rewriteStatus l s).stager = s.stager ∧
    (rewriteStatus l s).commit = s.commit ∧
    (rewriteStatus l s).lane = s.lane ∧
    (rewriteStatus l s).jrn = s.jrn ∧
    (rewriteStatus l s).cmd = s.cmd ∧
    (rewriteStatus l s).img = s.img := by
  have h := foldl_keeps (fun u : State => (u.pending, u.resetAsserted, u.cbStraps, u.wallUs, u.freeIdx, u.regions, u.dir, u.ovr, u.front, u.merge, u.stager, u.commit, u.lane, u.jrn, u.cmd, u.img)) (rewriteLine l) (fun _ _ => by simp) (List.range 20) s
  simp only [Prod.mk.injEq] at h
  simp [rewriteStatus, h]

@[simp] theorem closeEvent_frame (s : State) :
    (closeEvent s).pending = s.pending ∧
    (closeEvent s).resetAsserted = s.resetAsserted ∧
    (closeEvent s).cbStraps = s.cbStraps ∧
    (closeEvent s).wallUs = s.wallUs ∧
    (closeEvent s).freeIdx = s.freeIdx ∧
    (closeEvent s).regions = s.regions ∧
    (closeEvent s).dir = s.dir ∧
    (closeEvent s).ovr = s.ovr ∧
    (closeEvent s).front = s.front ∧
    (closeEvent s).merge = s.merge ∧
    (closeEvent s).stager = s.stager ∧
    (closeEvent s).commit = s.commit ∧
    (closeEvent s).lane = s.lane ∧
    (closeEvent s).jrn = s.jrn ∧
    (closeEvent s).cmd = s.cmd ∧
    (closeEvent s).img = s.img := by
  simp only [closeEvent]
  split <;> simp

end Sys2Proof.Machine
end

