-- ==== Sys2Proof/Laws/Traffic.lean ====
section
/-! SUPPORT. Own traffic: a shared operation leaves the memory path but for own requests it adds; what is owed stays owed; the
operations that leave the notice counts. -/

namespace Sys2Proof.Machine

/-! ## The memory path is left but for own requests added -/

theorem KeepsPath.refl (s : State) : KeepsPath s s :=
  ⟨rfl, rfl, rfl, rfl, rfl, rfl, rfl, rfl, List.prefix_refl _⟩

theorem KeepsPath.trans {s t u : State} (h : KeepsPath s t) (k : KeepsPath t u) : KeepsPath s u := by
  obtain ⟨a, b, c, d, e, f, g, i, j⟩ := h
  obtain ⟨a', b', c', d', e', f', g', i', j'⟩ := k
  exact ⟨a'.trans a, b'.trans b, c'.trans c, d'.trans d, e'.trans e, f'.trans f, g'.trans g, i'.trans i, j.trans j'⟩

theorem KeepsPath.congr {s t u : State} (h : KeepsPath s t) (k : u.path = t.path) : KeepsPath s u := by
  unfold KeepsPath at *; rw [k]; exact h

theorem foldl_keepsPath {α : Type} (f : State → α → State) (h : ∀ u x, KeepsPath u (f u x)) (l : List α) (s : State) :
    KeepsPath s (l.foldl f s) := by
  induction l generalizing s with
  | nil => exact KeepsPath.refl s
  | cons x xs ih => exact (h s x).trans (ih _)

/-- Generating an own request puts it behind those the path holds. -/
theorem Path.gen_own (o : Origin) (a n : Nat) (k : ReqKind) (p : Path) :
    (Path.gen o a n k p).own =
      p.own ++ [{ serial := p.nextOwn, origin := o, addr := BitVec.ofNat 40 a, len := n, kind := k }] := by
  unfold Path.gen Path.own
  split
  · rename_i h
    simp [List.isEmpty_iff.mp h.2]
  · simp

@[simp] theorem Path.gen_frame (o : Origin) (a n : Nat) (k : ReqKind) (p : Path) :
    (Path.gen o a n k p).answers = p.answers ∧ (Path.gen o a n k p).fwd = p.fwd ∧
    (Path.gen o a n k p).headNote = p.headNote ∧ (Path.gen o a n k p).held = p.held ∧
    (Path.gen o a n k p).outst = p.outst ∧ (Path.gen o a n k p).returns = p.returns ∧
    (Path.gen o a n k p).offer = p.offer ∧ (Path.gen o a n k p).pass = p.pass ∧
    (Path.gen o a n k p).nextId = p.nextId ∧ (Path.gen o a n k p).procOut = p.procOut ∧
    (Path.gen o a n k p).nextOwn = p.nextOwn + 1 := by
  unfold Path.gen; split <;> simp

theorem keepsPath_gen (o : Origin) (a n : Nat) (k : ReqKind) (s : State) : KeepsPath s (s.updPath (Path.gen o a n k)) := by
  simp [KeepsPath, Path.gen_own]

theorem keepsPath_arbitrate (b : Bool) (s : State) : KeepsPath s (s.updPath (Path.arbitrate b)) := by
  simp [KeepsPath, Path.arbitrate, Path.own]

theorem keepsPath_genRead (o : Origin) (a n : Nat) (s : State) : KeepsPath s (genRead o a n s) := keepsPath_gen ..

theorem keepsPath_genWrite (o : Origin) (a : Nat) (bs : List Byte) (s : State) : KeepsPath s (genWrite o a bs s) :=
  keepsPath_gen ..

theorem keepsPath_genMasked (o : Origin) (a : Nat) (bs : List Byte) (m : List Bool) (s : State) :
    KeepsPath s (genMasked o a bs m s) := keepsPath_gen ..

theorem keepsPath_writeNotice (g : Regions) (n : Notice) (s : State) : KeepsPath s (writeNotice g n s) := (keepsPath_genWrite ..).congr rfl

theorem keepsPath_post (n : Notice) (s : State) : KeepsPath s (post n s) := by
  unfold post
  repeat' split
  all_goals first
    | exact KeepsPath.refl s
    | exact keepsPath_writeNotice ..
    | exact (KeepsPath.refl s).congr rfl

theorem keepsPath_postLane (b : NBody) (s : State) : KeepsPath s (postLane b s) := keepsPath_post ..

theorem keepsPath_drainOverflow (g : Regions) (l : List Notice) (s : State) : KeepsPath s (drainOverflow g l s) := by
  induction l generalizing s with
  | nil => exact (KeepsPath.refl s).congr rfl
  | cons n rest ih =>
    unfold drainOverflow
    split
    · exact (keepsPath_writeNotice ..).trans (ih _)
    · exact (KeepsPath.refl s).congr rfl

theorem keepsPath_holdOn (w : HoldReason) (s : State) : KeepsPath s (holdOn w s) := by
  simp only [holdOn]
  repeat' split
  · exact KeepsPath.trans ((KeepsPath.refl s).congr rfl) (keepsPath_postLane ..)
  · exact (KeepsPath.refl s).congr rfl
  · exact KeepsPath.refl s

theorem keepsPath_endHistory (s : State) : KeepsPath s (endHistory s) := KeepsPath.trans ((KeepsPath.refl s).congr rfl) (keepsPath_postLane ..)

theorem keepsPath_endTest (s : State) : KeepsPath s (endTest s) := by
  simp only [endTest]
  split
  · exact KeepsPath.trans ((KeepsPath.refl s).congr rfl) (keepsPath_endHistory ..)
  · exact (KeepsPath.refl s).congr rfl

theorem keepsPath_stopTimeTest (s : State) : KeepsPath s (stopTimeTest s) := by
  unfold stopTimeTest
  split
  · exact KeepsPath.refl s
  · refine KeepsPath.trans ?_ (keepsPath_holdOn _ _)
    refine KeepsPath.trans ?_ (keepsPath_postLane _ _)
    exact (KeepsPath.refl s).congr rfl

theorem keepsPath_placeEntry (g : Regions) (h : Handed) (s : State) : KeepsPath s (placeEntry g h s) := (keepsPath_genWrite ..).congr rfl

theorem keepsPath_pumpJrn (g : Regions) (l : List Handed) (s : State) : KeepsPath s (pumpJrn g l s) := by
  induction l generalizing s with
  | nil => exact (KeepsPath.refl s).congr rfl
  | cons n rest ih =>
    unfold pumpJrn
    split
    · exact (keepsPath_genRead ..).congr rfl
    · exact (keepsPath_placeEntry ..).trans (ih _)

theorem keepsPath_handIn (h : Handed) (s : State) : KeepsPath s (handIn h s) := by
  unfold handIn
  repeat' split
  · exact KeepsPath.refl s
  · exact (KeepsPath.refl s).congr rfl
  · exact keepsPath_pumpJrn ..

theorem keepsPath_handLoose (i : Nat) (pos : Pos) (e : JEntry) (s : State) : KeepsPath s (handLoose i pos e s) := by
  unfold handLoose
  split
  · exact KeepsPath.refl s
  · exact KeepsPath.trans ((KeepsPath.refl s).congr rfl) (keepsPath_handIn ..)

theorem keepsPath_postDrained (i : Nat) (c : Chan) (s : State) : KeepsPath s (postDrained i c s) := by
  unfold postDrained
  split
  · exact keepsPath_post ..
  · exact (keepsPath_post ..).congr rfl

theorem keepsPath_recomputeChan (s : State) (i : Nat) : KeepsPath s (recomputeChan s i) := by
  simp only [recomputeChan]
  repeat' split
  · exact KeepsPath.refl s
  · exact KeepsPath.refl s
  · exact KeepsPath.trans ((KeepsPath.refl s).congr rfl) (keepsPath_postDrained ..)
  · exact (KeepsPath.refl s).congr rfl

theorem keepsPath_recomputeAll (s : State) : KeepsPath s (recomputeAll s) := foldl_keepsPath _ (fun u i => keepsPath_recomputeChan u i) _ _

theorem keepsPath_rejectRecord (i : Nat) (pos : Pos) (w : Reason) (pt : Option PointNo) (a : Option (BitVec 64)) (s : State) : KeepsPath s (rejectRecord i pos w pt a s) := by
  unfold rejectRecord
  split
  · exact KeepsPath.refl s
  · exact KeepsPath.trans ((keepsPath_handLoose ..).congr rfl) (keepsPath_post ..)

theorem keepsPath_dropLate (i : Nat) (c : Chan) (full : Bool) (r : Rec) (s : State) : KeepsPath s (dropLate i c full r s) := KeepsPath.trans (keepsPath_handLoose ..) (keepsPath_post ..)

theorem keepsPath_lateRecord (i : Nat) (r : Rec) (s : State) : KeepsPath s (lateRecord i r s) := by
  simp only [lateRecord]
  repeat' split
  · exact KeepsPath.refl s
  · exact KeepsPath.trans ((KeepsPath.refl s).congr rfl) (keepsPath_dropLate ..)
  · exact (KeepsPath.refl s).congr rfl
  · exact KeepsPath.trans ((KeepsPath.refl s).congr rfl) (keepsPath_dropLate ..)

theorem keepsPath_rejudgeChan (s : State) (i : Nat) : KeepsPath s (rejudgeChan s i) := by
  unfold rejudgeChan
  split
  · exact KeepsPath.refl s
  · refine foldl_keepsPath _ (fun u r => ?_) _ _
    refine KeepsPath.trans ?_ (keepsPath_lateRecord _ _ _)
    exact (KeepsPath.refl u).congr rfl

theorem keepsPath_rejudgeAll (s : State) : KeepsPath s (rejudgeAll s) := foldl_keepsPath _ (fun u i => keepsPath_rejudgeChan u i) _ _

theorem keepsPath_retimeRec (i : Nat) (off : Int) (s : State) (r : Rec) : KeepsPath s (retimeRec i off s r) := by
  simp only [retimeRec]
  repeat' split
  · exact KeepsPath.trans ((KeepsPath.refl s).congr rfl) (keepsPath_rejectRecord ..)
  · exact KeepsPath.trans ((KeepsPath.refl s).congr rfl) (keepsPath_lateRecord ..)
  · exact (KeepsPath.refl s).congr rfl

theorem keepsPath_retimeChan (b : BitVec 4) (off : Int) (s : State) (i : Nat) : KeepsPath s (retimeChan b off s i) := by
  unfold retimeChan
  repeat' split
  · exact KeepsPath.refl s
  · exact KeepsPath.trans ((KeepsPath.refl s).congr rfl) (foldl_keepsPath _ (fun u r => keepsPath_retimeRec _ _ u r) _ _)
  · exact KeepsPath.refl s

theorem keepsPath_skewTransfer (b : BitVec 4) (new : Word32) (s : State) : KeepsPath s (skewTransfer b new s) := by
  simp only [skewTransfer]
  split
  · exact (keepsPath_handIn _ _).congr rfl
  · refine KeepsPath.trans ?_ (foldl_keepsPath _ (fun u i => keepsPath_retimeChan _ _ u i) _ _)
    exact (keepsPath_handIn _ _).congr rfl

theorem keepsPath_applySet (s : State) (i : Nat) : KeepsPath s (applySet s i) := by
  simp only [applySet]
  split
  · exact KeepsPath.refl s
  · split
    · exact KeepsPath.refl s
    · refine KeepsPath.trans ?_ (keepsPath_recomputeChan _ _)
      split
      · refine KeepsPath.trans ?_ (keepsPath_post _ _)
        exact (KeepsPath.refl s).congr rfl
      · exact (KeepsPath.refl s).congr rfl

theorem keepsPath_applySets (s : State) : KeepsPath s (applySets s) := foldl_keepsPath _ (fun u i => keepsPath_applySet u i) _ _

theorem keepsPath_rejoin (i : Nat) (t : Time) (s : State) : KeepsPath s (rejoin i t s) := by
  simp only [rejoin]
  repeat' split
  · exact KeepsPath.refl s
  · exact (KeepsPath.refl s).congr rfl
  · exact KeepsPath.trans ((KeepsPath.refl s).congr rfl) (keepsPath_post ..)
  · exact KeepsPath.refl s

theorem keepsPath_laneTests (s : State) : KeepsPath s (laneTests s) := (keepsPath_endTest ..).trans (keepsPath_stopTimeTest ..)

theorem keepsPath_recomputeLive (s : State) : KeepsPath s (recomputeLive s) := by
  unfold recomputeLive
  split
  · exact KeepsPath.refl s
  · exact keepsPath_recomputeAll ..

theorem keepsPath_settle (s : State) : KeepsPath s (settle s) := by
  unfold settle
  refine KeepsPath.congr ?_ (show _ = (laneTests (anchorClear (recomputeLive s))).path by simp)
  refine KeepsPath.trans ?_ (keepsPath_laneTests _)
  refine KeepsPath.congr ?_ (anchorClear_frame _).2.2.2.2.2.1
  exact keepsPath_recomputeLive s

theorem keepsPath_settleKeep (s : State) : KeepsPath s (settleKeep s) := by
  unfold settleKeep
  refine KeepsPath.congr ?_ (show _ = (laneTests (recomputeLive s)).path by simp)
  refine KeepsPath.trans ?_ (keepsPath_laneTests _)
  exact keepsPath_recomputeLive s

theorem keepsPath_transferSkew (s : State) (k : Nat) : KeepsPath s (transferSkew s k) := by
  unfold transferSkew
  split
  · exact KeepsPath.refl s
  · exact keepsPath_skewTransfer ..

theorem keepsPath_transferSkews (s : State) : KeepsPath s (transferSkews s) := by
  have h := foldl_keepsPath _ (fun u i => keepsPath_transferSkew u i) (List.range 16) s
  exact h.congr (State.updLane_path _ _)

theorem keepsPath_restoreOne (s : State) (w : WriteRec) : KeepsPath s (restoreOne s w) := (keepsPath_genWrite ..).congr rfl

theorem keepsPath_restoreAll (ws : List WriteRec) (s : State) : KeepsPath s (restoreAll ws s) := foldl_keepsPath _ (fun u w => keepsPath_restoreOne u w) _ _

theorem keepsPath_beginSlot (s : State) : KeepsPath s (beginSlot s) := KeepsPath.trans ((KeepsPath.refl s).congr rfl) (keepsPath_genRead ..)

theorem keepsPath_startPending (s : State) : KeepsPath s (startPending s) := by
  unfold startPending
  split
  · exact keepsPath_beginSlot s
  · exact KeepsPath.refl s

theorem keepsPath_genResult (r : Nat) (d : List Byte) (s : State) : KeepsPath s (genResult r d s) := keepsPath_genMasked ..

theorem keepsPath_genOwner (s : State) : KeepsPath s (genOwner s) := keepsPath_genMasked ..

theorem keepsPath_complete (r : Nat) (d : List Byte) (s : State) : KeepsPath s (complete r d s) := (((keepsPath_genResult ..).trans (keepsPath_genOwner ..)).congr rfl).trans (keepsPath_startPending ..)

theorem keepsPath_badParam (i : Nat) (s : State) : KeepsPath s (badParam i s) := keepsPath_complete ..

theorem keepsPath_rewriteLine (l : LaneState) (s : State) (k : Nat) : KeepsPath s (rewriteLine l s k) := by
  simp only [rewriteLine]
  split
  · exact KeepsPath.refl s
  · exact (keepsPath_genWrite ..).congr rfl

theorem keepsPath_rewriteStatus (l : LaneState) (s : State) : KeepsPath s (rewriteStatus l s) := by
  have h := foldl_keepsPath _ (fun u k => keepsPath_rewriteLine l u k) (List.range 20) s
  exact h.congr (State.updNtc_path _ _)

theorem keepsPath_closeEvent (s : State) : KeepsPath s (closeEvent s) := by
  simp only [closeEvent]
  split
  · exact (keepsPath_rewriteStatus s.lane.lane s).trans (keepsPath_arbitrate ..)
  · exact keepsPath_arbitrate ..

theorem keepsPath_setLane (l : LaneState) (s : State) : KeepsPath s (setLane l s) :=
  (KeepsPath.refl s).congr (by simp)

theorem keepsPath_stopLane (s : State) : KeepsPath s (stopLane s) :=
  (KeepsPath.refl s).congr (by simp)

theorem keepsPath_holdOff (w : HoldReason) (s : State) : KeepsPath s (holdOff w s) :=
  (KeepsPath.refl s).congr (by simp)

theorem keepsPath_takeChecked (i : Nat) (pos : Pos) (s : State) : KeepsPath s (takeChecked i pos s) :=
  (KeepsPath.refl s).congr (by simp)

theorem keepsPath_moveCursor (s : State) (i : Nat) : KeepsPath s (moveCursor s i) :=
  (KeepsPath.refl s).congr (by simp)

theorem keepsPath_moveCursors (s : State) : KeepsPath s (moveCursors s) :=
  (KeepsPath.refl s).congr (by simp)

theorem keepsPath_transferSettings (s : State) : KeepsPath s (transferSettings s) :=
  (KeepsPath.refl s).congr (by simp)

theorem keepsPath_waitFor (w : WaitCmd) (s : State) : KeepsPath s (waitFor w s) :=
  (KeepsPath.refl s).congr (by simp)

theorem keepsPath_discardFetches (k : Bool) (s : State) : KeepsPath s (discardFetches k s) :=
  (KeepsPath.refl s).congr (by simp)

theorem keepsPath_anchorClear (s : State) : KeepsPath s (anchorClear s) :=
  (KeepsPath.refl s).congr (by simp)

theorem keepsPath_anchorResume (s : State) : KeepsPath s (anchorResume s) := by
  simp only [anchorResume]; split
  · exact keepsPath_anchorClear s
  · exact (keepsPath_anchorClear s).trans (keepsPath_laneTests _)

theorem keepsPath_starveReset (s : State) : KeepsPath s (starveReset s) :=
  (KeepsPath.refl s).congr (by simp)

/-! ## What is owed -/

theorem KeepsPath.own_mem {s t : State} (h : KeepsPath s t) {q : OwnReq} (m : q ∈ s.path.own) : q ∈ t.path.own :=
  h.2.2.2.2.2.2.2.2.subset m

theorem KeepsPath.owesWrite {s t : State} (h : KeepsPath s t) {o : Origin} {a : Nat} {bs : List Byte}
    (m : s.owesWrite o a bs) : t.owesWrite o a bs := by
  obtain ⟨q, hq, r⟩ := m
  exact ⟨q, h.own_mem hq, r⟩

theorem KeepsPath.owesRead {s t : State} (h : KeepsPath s t) {o : Origin} {a n : Nat} (m : s.owesRead o a n) :
    t.owesRead o a n := by
  obtain ⟨q, hq, r⟩ := m
  exact ⟨q, h.own_mem hq, r⟩

theorem owesRead_genRead (o : Origin) (a n : Nat) (s : State) : (genRead o a n s).owesRead o a n := by
  simp [State.owesRead, genRead, Path.gen_own]

theorem owesWrite_genWrite (o : Origin) (a : Nat) (bs : List Byte) (s : State) : (genWrite o a bs s).owesWrite o a bs := by
  simp [State.owesWrite, genWrite, Path.gen_own]

/-- What is owed is read off the path. -/
theorem State.owesWrite_congr {s t : State} (h : t.path = s.path) {o : Origin} {a : Nat} {bs : List Byte}
    (m : s.owesWrite o a bs) : t.owesWrite o a bs := by unfold State.owesWrite at *; rw [h]; exact m

theorem KeepsPath.own_prefix {s t : State} (h : KeepsPath s t) : s.path.own <+: t.path.own := h.2.2.2.2.2.2.2.2

/-- An answer to a command owes the result write, the owner write behind it, and N has advanced. -/
theorem answers_complete (res : Nat) (data : List Byte) (s : State) : Answers s (complete res data s) res data := by
  constructor
  · have h : KeepsPath (genOwner (genResult res data s)) (complete res data s) :=
      KeepsPath.trans ((KeepsPath.refl _).congr rfl) (keepsPath_startPending _)
    obtain ⟨rest, e⟩ := h.own_prefix
    obtain ⟨q, hq, q'⟩ : ∃ q, (genResult res data s).path.own = s.path.own ++ [q] ∧ s.resultReq res data q :=
      ⟨_, Path.gen_own .., rfl, rfl, rfl⟩
    obtain ⟨r, hr, r'⟩ : ∃ r, (genOwner (genResult res data s)).path.own = (genResult res data s).path.own ++ [r] ∧
        s.ownerReq r := ⟨_, Path.gen_own .., rfl, rfl, rfl⟩
    exact ⟨s.path.own, q, [], r, rest, by rw [← e, hr, hq]; simp, q', r'⟩
  · simp only [complete, startPending]
    split <;> simp [beginSlot, CmdProc.advance, State.markDue]

/-- What joins the own traffic behind an answer leaves it. -/
theorem Answers.append {s t u : State} {res : Nat} {data : List Byte} (h : Answers s t res data)
    (k : t.path.own <+: u.path.own) (n : u.cmd.n = t.cmd.n) : Answers s u res data := by
  obtain ⟨⟨a, q, b, r, c, e, p⟩, m⟩ := h
  obtain ⟨rest, f⟩ := k
  exact ⟨⟨a, q, b, r, c ++ rest, by rw [← f, e]; simp, p⟩, n.trans m⟩

theorem Answers.closeEvent {s t : State} {res : Nat} {data : List Byte} (h : Answers s t res data) :
    Answers s (closeEvent t) res data := h.append (keepsPath_closeEvent t).own_prefix (by simp)

theorem Answers.congr {s u t : State} {res : Nat} {data : List Byte} (h : Answers u t res data)
    (k : s.cbStraps = u.cbStraps ∧ s.cmd.n = u.cmd.n) : Answers s t res data := by
  unfold Answers State.resultReq State.ownerReq State.slotAddr State.cbBase at *; rw [k.1, k.2]; exact h

/-! ## The notice counts are left -/

theorem KeepsNotices.refl (s : State) : KeepsNotices s s := ⟨rfl, rfl, rfl, rfl, rfl, rfl, rfl⟩

theorem KeepsNotices.trans {s t u : State} (h : KeepsNotices s t) (k : KeepsNotices t u) : KeepsNotices s u := by
  obtain ⟨a, b, c, d, e, f, g⟩ := h
  obtain ⟨a', b', c', d', e', f', g'⟩ := k
  exact ⟨a'.trans a, b'.trans b, c'.trans c, d'.trans d, e'.trans e, f'.trans f, g'.trans g⟩

theorem KeepsNotices.congr {s t u : State} (h : KeepsNotices s t) (k : u.ntc = t.ntc) : KeepsNotices s u := by
  unfold KeepsNotices at *; rw [k]; exact h

theorem foldl_keepsNotices {α : Type} (f : State → α → State) (h : ∀ u x, KeepsNotices u (f u x)) (l : List α) (s : State) :
    KeepsNotices s (l.foldl f s) := by
  induction l generalizing s with
  | nil => exact KeepsNotices.refl s
  | cons x xs ih => exact (h s x).trans (ih _)

theorem keepsNotices_markDue (s : State) : KeepsNotices s s.markDue := ⟨rfl, rfl, rfl, rfl, rfl, rfl, rfl⟩

theorem keepsNotices_startPending (s : State) : KeepsNotices s (startPending s) := (KeepsNotices.refl s).congr (by simp)

theorem keepsNotices_complete (res : Nat) (data : List Byte) (s : State) : KeepsNotices s (complete res data s) := by
  unfold complete
  refine KeepsNotices.trans ?_ (keepsNotices_startPending _)
  refine KeepsNotices.trans ?_ (keepsNotices_markDue _)
  exact (KeepsNotices.refl s).congr (by simp)

theorem keepsNotices_badParam (i : Nat) (s : State) : KeepsNotices s (badParam i s) := keepsNotices_complete ..

theorem keepsNotices_rewriteLine (l : LaneState) (s : State) (k : Nat) : KeepsNotices s (rewriteLine l s k) := by
  simp only [rewriteLine]
  split
  · exact KeepsNotices.refl s
  · simp [KeepsNotices]

theorem keepsNotices_rewriteStatus (l : LaneState) (s : State) : KeepsNotices s (rewriteStatus l s) := by
  have h := foldl_keepsNotices _ (fun u k => keepsNotices_rewriteLine l u k) (List.range 20) s
  unfold rewriteStatus
  generalize List.foldl (rewriteLine l) s (List.range 20) = u at *
  exact h.trans ⟨rfl, rfl, rfl, rfl, rfl, rfl, rfl⟩

theorem keepsNotices_closeEvent (s : State) : KeepsNotices s (closeEvent s) := by
  simp only [closeEvent]
  split
  · exact (keepsNotices_rewriteStatus _ _).congr (State.updPath_ntc _ _)
  · exact (KeepsNotices.refl s).congr (State.updPath_ntc _ _)

/-! ## No rewrite is owed after an event -/

@[simp] theorem rewriteStatus_due (l : LaneState) (s : State) : (rewriteStatus l s).ntc.due = false := by
  simp [rewriteStatus]

/-! ## Noted writes, cursors and restored fields -/

/-- What a request notes as it reaches the head (R172). -/
theorem Path.mem_noted (p : Path) (f : Fwd) (n : Nat) : n ∈ p.noted f ↔ p.notes f n := by
  simp only [Path.noted, Path.notes, Path.own, List.mem_map, List.mem_filter, List.mem_append, lineOf, Bool.and_eq_true, beq_iff_eq]
  constructor
  · rintro ⟨r, ⟨h, k, l⟩, e⟩
    refine ⟨r, h.symm, ?_, by omega, e⟩
    intro q; simp [q] at k
  · rintro ⟨r, h, k, l, e⟩
    refine ⟨r, ⟨h.symm, ?_, by omega⟩, e⟩
    cases q : r.kind with
    | read => exact absurd q k
    | write => rfl

/-- The least of a list and a start by a measure. -/
theorem foldl_least (g : Pos → Nat) (l : List Pos) (a : Pos) :
    let x := l.foldl (fun a p => if g p < g a then p else a) a
    (x = a ∨ x ∈ l) ∧ g x ≤ g a ∧ ∀ p ∈ l, g x ≤ g p := by
  induction l generalizing a with
  | nil => simp
  | cons y ys ih =>
    simp only [List.foldl_cons]
    have := ih (if g y < g a then y else a)
    simp only at this
    obtain ⟨h1, h2, h3⟩ := this
    split at h1 <;> rename_i hc
    · rw [if_pos hc] at h2 h3 ⊢
      refine ⟨by simp_all, by omega, ?_⟩
      simp; exact ⟨h2, h3⟩
    · rw [if_neg hc] at h2 h3 ⊢
      refine ⟨by rcases h1 with h | h <;> simp_all, h2, ?_⟩
      simp; exact ⟨by omega, h3⟩

/-- The cursor of a channel: the least position that holds it back, or where it stands (R28, log 47). -/
theorem cursorOf_spec (s : State) (i : Nat) (c : Chan) : ∃ x, (x = c.fetch ∨ x ∈ s.holdingBack i c) ∧ c.dist x ≤ c.dist c.fetch ∧
    (∀ p ∈ s.holdingBack i c, c.dist x ≤ c.dist p) ∧
    s.cursorOf i c = if c.dist x < c.dist c.cursor then c.cursor else x := by
  have h := foldl_least c.dist (s.holdingBack i c) c.fetch
  exact ⟨s.leastHeld i c, h.1, h.2.1, h.2.2, rfl⟩

/-- The entry of a point after one entry has been set. -/
theorem dirAt_setDirAt (s : State) (p q : PointNo) (f : DirEntry → DirEntry) :
    (s.setDirAt p f).dirAt q = if p = q then (s.dirAt q).map f else s.dirAt q := by
  simp only [State.setDirAt, State.dirAt, State.setDir, List.getElem?_modify]
  by_cases h : p = q
  · simp [h]
  · have : p.toNat ≠ q.toNat := fun e => h (BitVec.eq_of_toNat_eq e)
    simp [h, this]

/-- One restored write sets the directory fields of its point alone. -/
theorem restoreOne_dirAt (s : State) (w : WriteRec) (q : PointNo) : (restoreOne s w).dirAt q =
    if w.point = q then (s.dirAt q).map fun e => { e with lastChange := w.oldChange, lastGood := w.oldGood } else s.dirAt q := by
  have : (genWrite .restoreWrite (s.wordAddr w.point) w.oldWord.toBytes s).dirAt q = s.dirAt q := by simp [State.dirAt]
  rw [restoreOne, dirAt_setDirAt, this]

/-- A list of writes restored, newest first, leaves each point the fields its oldest write kept (R96). -/
theorem dirRestored_restoreAll (ws : List WriteRec) (s : State) : DirRestored ws s (restoreAll ws s) := by
  intro p e h
  induction ws generalizing s e with
  | nil => exact ⟨e, h, fun _ => rfl, fun n o x k => by simp at k⟩
  | cons w ws ih =>
    by_cases k : w.point = p
    · obtain ⟨d, a, b, c⟩ := ih (restoreOne s w) { e with lastChange := w.oldChange, lastGood := w.oldGood } (by
        rw [restoreOne_dirAt]; simp [k, h])
      refine ⟨d, a, fun q => absurd k (q w (by simp)), fun n o x q r t => ?_⟩
      cases n with
      | nil => simp at q; obtain ⟨rfl, rfl⟩ := q; rw [b t]
      | cons y n => simp at q; rw [c n o x q.2 r t]
    · obtain ⟨d, a, b, c⟩ := ih (restoreOne s w) e (by rw [restoreOne_dirAt]; simp [k, h])
      refine ⟨d, a, fun q => b fun x hx => q x (by simp [hx]), fun n o x q r t => ?_⟩
      cases n with
      | nil => simp at q; obtain ⟨rfl, rfl⟩ := q; exact absurd r k
      | cons y n => simp at q; exact c n o x q.2 r t

end Sys2Proof.Machine
end

