-- ==== Sys2Proof/Laws/Channels.lean ====
section
/-! SUPPORT. Recomputing channel states leaves everything else of the channels; where no recomputation is owed it leaves all. -/

namespace Sys2Proof.Machine

theorem KeepsChans.refl (s : State) : KeepsChans s s := ⟨rfl, rfl, fun _ => rfl⟩

theorem KeepsChans.trans {s t u : State} (h : KeepsChans s t) (k : KeepsChans t u) : KeepsChans s u :=
  ⟨k.1.trans h.1, k.2.1.trans h.2.1, fun j => (k.2.2 j).trans (h.2.2 j)⟩

theorem KeepsChans.congr {s t u : State} (h : KeepsChans s t) (k : u.front = t.front) : KeepsChans s u := by
  unfold KeepsChans State.chanAt at *; rw [k]; exact h

theorem foldl_keepsChans {α : Type} (f : State → α → State) (h : ∀ u x, KeepsChans u (f u x)) (l : List α) (s : State) :
    KeepsChans s (l.foldl f s) := by
  induction l generalizing s with
  | nil => exact KeepsChans.refl s
  | cons x xs ih => exact (h s x).trans (ih _)

/-- A change of one channel shows at that channel alone. -/
theorem chanAt_setChan (s : State) (i : Nat) (f : Chan → Chan) (j : Nat) :
    (s.setChan i f).chanAt j = if i = j then (s.chanAt j).map f else s.chanAt j := by
  simp only [State.setChan, State.updFront_front, State.chanAt, List.getElem?_modify]
  split <;> simp

theorem chanAt_setChan_self {s : State} {i : Nat} {c : Chan} (h : s.chanAt i = some c) (f : Chan → Chan) :
    (s.setChan i f).chanAt i = some (f c) := by
  rw [chanAt_setChan, h]; simp

theorem chanAt_congr {s t : State} (h : t.front = s.front) (j : Nat) : t.chanAt j = s.chanAt j := by
  unfold State.chanAt; rw [h]

theorem keepsChans_setChan (s : State) (i : Nat) (f : Chan → Chan) (h : ∀ c, (f c).lessState = c.lessState) :
    KeepsChans s (s.setChan i f) := by
  refine ⟨rfl, rfl, fun j => ?_⟩
  rw [chanAt_setChan]
  split
  · cases s.chanAt j <;> simp [h]
  · rfl

theorem keepsOtherChans_setChan (s : State) (i : Nat) (f : Chan → Chan) : KeepsOtherChans i s (s.setChan i f) := by
  intro j hj
  rw [chanAt_setChan, if_neg (Ne.symm hj)]

theorem KeepsOtherChans.trans {i : Nat} {s t u : State} (h : KeepsOtherChans i s t) (k : KeepsOtherChans i t u) :
    KeepsOtherChans i s u := fun j hj => (k j hj).trans (h j hj)

theorem KeepsChans.others {s t : State} (h : KeepsChans s t) (i : Nat) : KeepsOtherChans i s t := fun j _ => h.2.2 j

theorem keepsOtherChans_of_front {s t : State} (h : t.front = s.front) (i : Nat) : KeepsOtherChans i s t :=
  ((KeepsChans.refl s).congr h).others i

theorem KeepsChans.chanAt {s t : State} (h : KeepsChans s t) {i : Nat} {c : Chan} (k : s.chanAt i = some c) :
    ∃ c', t.chanAt i = some c' ∧ c'.lessState = c.lessState := by
  have h2 := h.2.2 i
  rw [k] at h2
  cases h3 : t.chanAt i with
  | none => simp [h3] at h2
  | some d => exact ⟨d, rfl, by simpa [h3] using h2⟩

theorem keepsChans_recomputeChan (s : State) (i : Nat) : KeepsChans s (recomputeChan s i) := by
  simp only [recomputeChan]
  split
  · exact KeepsChans.refl s
  · rename_i c hc
    split
    · exact KeepsChans.refl s
    · have h : KeepsChans s ((s.setChan i fun d => { d with st := c.calc, lagging := c.calc == .lagging }).markDue) :=
        (keepsChans_setChan s i (fun d => { d with st := c.calc, lagging := c.calc == .lagging }) fun _ => rfl).congr rfl
      split
      · exact h.congr (by simp)
      · exact h

theorem keepsChans_recomputeAll (s : State) : KeepsChans s (recomputeAll s) :=
  foldl_keepsChans _ (fun u i => keepsChans_recomputeChan u i) _ _

theorem keepsChans_settle (s : State) : KeepsChans s (settle s) := by
  unfold settle
  refine KeepsChans.congr ?_ (show _ = (recomputeLive s).front by simp)
  unfold recomputeLive
  split
  · exact KeepsChans.refl s
  · exact keepsChans_recomputeAll s

theorem keepsChans_settleKeep (s : State) : KeepsChans s (settleKeep s) := by
  unfold settleKeep
  refine KeepsChans.congr ?_ (show _ = (recomputeLive s).front by simp)
  unfold recomputeLive
  split
  · exact KeepsChans.refl s
  · exact keepsChans_recomputeAll s

theorem keepsChans_closeEvent (s : State) : KeepsChans s (closeEvent s) := (KeepsChans.refl s).congr (by simp)

/-- A channel that shows its state is left. -/
theorem recomputeChan_settled {s : State} (h : s.settled) (i : Nat) : recomputeChan s i = s := by
  unfold recomputeChan
  split
  · rfl
  · rename_i c hc
    rw [if_pos (h c (List.mem_of_getElem? hc))]

theorem recomputeAll_settled {s : State} (h : s.settled) : recomputeAll s = s := by
  unfold recomputeAll
  induction List.range s.front.chans.length with
  | nil => rfl
  | cons x xs ih => rw [List.foldl_cons, recomputeChan_settled h x]; exact ih

theorem recomputeLive_settled {s : State} (h : s.settled) : recomputeLive s = s := by
  unfold recomputeLive
  split
  · rfl
  · exact recomputeAll_settled h

end Sys2Proof.Machine
end

