-- ==== Sys2Proof/Laws/Units.lean ====
section
/-! SUPPORT. What the operations of each unit leave unchanged. -/

namespace Sys2Proof.Machine


@[simp] theorem State.updFly_frame (s : State) (f : Flight → Flight) :
    (s.updFly f).pending = s.pending ∧
    (s.updFly f).resetAsserted = s.resetAsserted ∧
    (s.updFly f).cbStraps = s.cbStraps ∧
    (s.updFly f).wallUs = s.wallUs ∧
    (s.updFly f).freeIdx = s.freeIdx ∧
    (s.updFly f).path = s.path ∧
    (s.updFly f).regions = s.regions ∧
    (s.updFly f).dir = s.dir ∧
    (s.updFly f).ovr = s.ovr ∧
    (s.updFly f).front = s.front ∧
    (s.updFly f).merge = s.merge ∧
    (s.updFly f).stager = s.stager ∧
    (s.updFly f).lane = s.lane ∧
    (s.updFly f).jrn = s.jrn ∧
    (s.updFly f).cmd = s.cmd ∧
    (s.updFly f).ntc = s.ntc ∧
    (s.updFly f).img = s.img := by
  simp [State.updFly]

@[simp] theorem State.updWalk_frame (s : State) (f : Walk → Walk) :
    (s.updWalk f).pending = s.pending ∧
    (s.updWalk f).resetAsserted = s.resetAsserted ∧
    (s.updWalk f).cbStraps = s.cbStraps ∧
    (s.updWalk f).wallUs = s.wallUs ∧
    (s.updWalk f).freeIdx = s.freeIdx ∧
    (s.updWalk f).path = s.path ∧
    (s.updWalk f).regions = s.regions ∧
    (s.updWalk f).dir = s.dir ∧
    (s.updWalk f).ovr = s.ovr ∧
    (s.updWalk f).front = s.front ∧
    (s.updWalk f).merge = s.merge ∧
    (s.updWalk f).stager = s.stager ∧
    (s.updWalk f).commit = s.commit ∧
    (s.updWalk f).lane = s.lane ∧
    (s.updWalk f).cmd = s.cmd ∧
    (s.updWalk f).ntc = s.ntc ∧
    (s.updWalk f).img = s.img := by
  simp [State.updWalk]

@[simp] theorem State.updPend_frame (s : State) (f : Pend → Pend) :
    (s.updPend f).pending = s.pending ∧
    (s.updPend f).resetAsserted = s.resetAsserted ∧
    (s.updPend f).cbStraps = s.cbStraps ∧
    (s.updPend f).wallUs = s.wallUs ∧
    (s.updPend f).freeIdx = s.freeIdx ∧
    (s.updPend f).path = s.path ∧
    (s.updPend f).regions = s.regions ∧
    (s.updPend f).dir = s.dir ∧
    (s.updPend f).ovr = s.ovr ∧
    (s.updPend f).front = s.front ∧
    (s.updPend f).merge = s.merge ∧
    (s.updPend f).stager = s.stager ∧
    (s.updPend f).commit = s.commit ∧
    (s.updPend f).jrn = s.jrn ∧
    (s.updPend f).cmd = s.cmd ∧
    (s.updPend f).ntc = s.ntc ∧
    (s.updPend f).img = s.img := by
  simp [State.updPend]

@[simp] theorem lagChan_frame (s : State) (i : Nat) :
    (lagChan s i).pending = s.pending ∧
    (lagChan s i).resetAsserted = s.resetAsserted ∧
    (lagChan s i).cbStraps = s.cbStraps ∧
    (lagChan s i).wallUs = s.wallUs ∧
    (lagChan s i).freeIdx = s.freeIdx ∧
    (lagChan s i).regions = s.regions ∧
    (lagChan s i).dir = s.dir ∧
    (lagChan s i).ovr = s.ovr ∧
    (lagChan s i).merge = s.merge ∧
    (lagChan s i).stager = s.stager ∧
    (lagChan s i).commit = s.commit ∧
    (lagChan s i).lane = s.lane ∧
    (lagChan s i).jrn = s.jrn ∧
    (lagChan s i).cmd = s.cmd ∧
    (lagChan s i).img = s.img := by
  unfold lagChan
  repeat' split
  all_goals (try simp)

@[simp] theorem anchorResume_frame (s : State) :
    (anchorResume s).pending = s.pending ∧
    (anchorResume s).resetAsserted = s.resetAsserted ∧
    (anchorResume s).cbStraps = s.cbStraps ∧
    (anchorResume s).wallUs = s.wallUs ∧
    (anchorResume s).freeIdx = s.freeIdx ∧
    (anchorResume s).regions = s.regions ∧
    (anchorResume s).dir = s.dir ∧
    (anchorResume s).ovr = s.ovr ∧
    (anchorResume s).front = s.front ∧
    (anchorResume s).stager = s.stager ∧
    (anchorResume s).commit = s.commit ∧
    (anchorResume s).jrn = s.jrn ∧
    (anchorResume s).cmd = s.cmd ∧
    (anchorResume s).img = s.img := by
  simp only [anchorResume]
  split <;> simp

@[simp] theorem paceTick_frame (s : State) :
    (paceTick  s).pending = s.pending ∧
    (paceTick  s).resetAsserted = s.resetAsserted ∧
    (paceTick  s).cbStraps = s.cbStraps ∧
    (paceTick  s).wallUs = s.wallUs ∧
    (paceTick  s).freeIdx = s.freeIdx ∧
    (paceTick  s).path = s.path ∧
    (paceTick  s).regions = s.regions ∧
    (paceTick  s).dir = s.dir ∧
    (paceTick  s).ovr = s.ovr ∧
    (paceTick  s).front = s.front ∧
    (paceTick  s).merge = s.merge ∧
    (paceTick  s).stager = s.stager ∧
    (paceTick  s).commit = s.commit ∧
    (paceTick  s).jrn = s.jrn ∧
    (paceTick  s).cmd = s.cmd ∧
    (paceTick  s).ntc = s.ntc ∧
    (paceTick  s).img = s.img := by
  unfold paceTick
  repeat' split
  all_goals (try simp)

@[simp] theorem starveTick_frame (s : State) :
    (starveTick  s).pending = s.pending ∧
    (starveTick  s).resetAsserted = s.resetAsserted ∧
    (starveTick  s).cbStraps = s.cbStraps ∧
    (starveTick  s).wallUs = s.wallUs ∧
    (starveTick  s).freeIdx = s.freeIdx ∧
    (starveTick  s).path = s.path ∧
    (starveTick  s).regions = s.regions ∧
    (starveTick  s).dir = s.dir ∧
    (starveTick  s).ovr = s.ovr ∧
    (starveTick  s).front = s.front ∧
    (starveTick  s).stager = s.stager ∧
    (starveTick  s).commit = s.commit ∧
    (starveTick  s).lane = s.lane ∧
    (starveTick  s).jrn = s.jrn ∧
    (starveTick  s).cmd = s.cmd ∧
    (starveTick  s).ntc = s.ntc ∧
    (starveTick  s).img = s.img := by
  unfold starveTick
  repeat' split
  all_goals (try simp)

@[simp] theorem expireStarvation_frame (s : State) :
    (expireStarvation  s).pending = s.pending ∧
    (expireStarvation  s).resetAsserted = s.resetAsserted ∧
    (expireStarvation  s).cbStraps = s.cbStraps ∧
    (expireStarvation  s).wallUs = s.wallUs ∧
    (expireStarvation  s).regions = s.regions ∧
    (expireStarvation  s).dir = s.dir ∧
    (expireStarvation  s).ovr = s.ovr ∧
    (expireStarvation  s).stager = s.stager ∧
    (expireStarvation  s).commit = s.commit ∧
    (expireStarvation  s).jrn = s.jrn ∧
    (expireStarvation  s).cmd = s.cmd ∧
    (expireStarvation  s).img = s.img := by
  have h := foldl_keeps (fun u : State => (u.pending, u.resetAsserted, u.cbStraps, u.wallUs, u.regions, u.dir, u.ovr, u.stager, u.commit, u.jrn, u.cmd, u.img)) lagChan (fun _ _ => by simp)
  simp only [Prod.mk.injEq] at h
  simp only [expireStarvation]
  split <;> simp [h]

@[simp] theorem admitLate_frame (s : State) :
    (admitLate  s).pending = s.pending ∧
    (admitLate  s).resetAsserted = s.resetAsserted ∧
    (admitLate  s).cbStraps = s.cbStraps ∧
    (admitLate  s).wallUs = s.wallUs ∧
    (admitLate  s).regions = s.regions ∧
    (admitLate  s).dir = s.dir ∧
    (admitLate  s).ovr = s.ovr ∧
    (admitLate  s).jrn = s.jrn ∧
    (admitLate  s).cmd = s.cmd ∧
    (admitLate  s).img = s.img := by
  simp [admitLate]

@[simp] theorem admitTimed_frame (tg : Nat) (s : State) :
    (admitTimed tg s).pending = s.pending ∧
    (admitTimed tg s).resetAsserted = s.resetAsserted ∧
    (admitTimed tg s).cbStraps = s.cbStraps ∧
    (admitTimed tg s).wallUs = s.wallUs ∧
    (admitTimed tg s).regions = s.regions ∧
    (admitTimed tg s).dir = s.dir ∧
    (admitTimed tg s).ovr = s.ovr ∧
    (admitTimed tg s).stager = s.stager ∧
    (admitTimed tg s).jrn = s.jrn ∧
    (admitTimed tg s).cmd = s.cmd ∧
    (admitTimed tg s).img = s.img := by
  simp only [admitTimed]
  split <;> simp

@[simp] theorem endFormation_frame (b : Bool) (s : State) :
    (endFormation b s).pending = s.pending ∧
    (endFormation b s).resetAsserted = s.resetAsserted ∧
    (endFormation b s).cbStraps = s.cbStraps ∧
    (endFormation b s).wallUs = s.wallUs ∧
    (endFormation b s).freeIdx = s.freeIdx ∧
    (endFormation b s).path = s.path ∧
    (endFormation b s).regions = s.regions ∧
    (endFormation b s).dir = s.dir ∧
    (endFormation b s).ovr = s.ovr ∧
    (endFormation b s).front = s.front ∧
    (endFormation b s).merge = s.merge ∧
    (endFormation b s).stager = s.stager ∧
    (endFormation b s).lane = s.lane ∧
    (endFormation b s).jrn = s.jrn ∧
    (endFormation b s).cmd = s.cmd ∧
    (endFormation b s).ntc = s.ntc ∧
    (endFormation b s).img = s.img := by
  simp [endFormation]

@[simp] theorem splitGroup_frame (s : State) :
    (splitGroup  s).pending = s.pending ∧
    (splitGroup  s).resetAsserted = s.resetAsserted ∧
    (splitGroup  s).cbStraps = s.cbStraps ∧
    (splitGroup  s).wallUs = s.wallUs ∧
    (splitGroup  s).freeIdx = s.freeIdx ∧
    (splitGroup  s).regions = s.regions ∧
    (splitGroup  s).dir = s.dir ∧
    (splitGroup  s).ovr = s.ovr ∧
    (splitGroup  s).front = s.front ∧
    (splitGroup  s).merge = s.merge ∧
    (splitGroup  s).stager = s.stager ∧
    (splitGroup  s).lane = s.lane ∧
    (splitGroup  s).jrn = s.jrn ∧
    (splitGroup  s).cmd = s.cmd ∧
    (splitGroup  s).img = s.img := by
  unfold splitGroup
  repeat' split
  all_goals (try simp)

@[simp] theorem stage_frame (it : Item) (s : State) :
    (stage it s).pending = s.pending ∧
    (stage it s).resetAsserted = s.resetAsserted ∧
    (stage it s).cbStraps = s.cbStraps ∧
    (stage it s).wallUs = s.wallUs ∧
    (stage it s).freeIdx = s.freeIdx ∧
    (stage it s).path = s.path ∧
    (stage it s).regions = s.regions ∧
    (stage it s).dir = s.dir ∧
    (stage it s).ovr = s.ovr ∧
    (stage it s).front = s.front ∧
    (stage it s).merge = s.merge ∧
    (stage it s).commit = s.commit ∧
    (stage it s).lane = s.lane ∧
    (stage it s).jrn = s.jrn ∧
    (stage it s).cmd = s.cmd ∧
    (stage it s).ntc = s.ntc ∧
    (stage it s).img = s.img := by
  simp [stage]

@[simp] theorem pullRelease_frame (e : DwellEntry) (s : State) :
    (pullRelease e s).pending = s.pending ∧
    (pullRelease e s).resetAsserted = s.resetAsserted ∧
    (pullRelease e s).cbStraps = s.cbStraps ∧
    (pullRelease e s).wallUs = s.wallUs ∧
    (pullRelease e s).freeIdx = s.freeIdx ∧
    (pullRelease e s).regions = s.regions ∧
    (pullRelease e s).dir = s.dir ∧
    (pullRelease e s).ovr = s.ovr ∧
    (pullRelease e s).front = s.front ∧
    (pullRelease e s).lane = s.lane ∧
    (pullRelease e s).jrn = s.jrn ∧
    (pullRelease e s).cmd = s.cmd ∧
    (pullRelease e s).img = s.img := by
  unfold pullRelease
  repeat' split
  all_goals (try simp)

@[simp] theorem pullItem_frame (i : Nat) (r : Rec) (it : Item) (s : State) :
    (pullItem i r it s).pending = s.pending ∧
    (pullItem i r it s).resetAsserted = s.resetAsserted ∧
    (pullItem i r it s).cbStraps = s.cbStraps ∧
    (pullItem i r it s).wallUs = s.wallUs ∧
    (pullItem i r it s).freeIdx = s.freeIdx ∧
    (pullItem i r it s).regions = s.regions ∧
    (pullItem i r it s).dir = s.dir ∧
    (pullItem i r it s).ovr = s.ovr ∧
    (pullItem i r it s).merge = s.merge ∧
    (pullItem i r it s).lane = s.lane ∧
    (pullItem i r it s).jrn = s.jrn ∧
    (pullItem i r it s).cmd = s.cmd ∧
    (pullItem i r it s).img = s.img := by
  unfold pullItem
  repeat' split
  all_goals (try simp)

@[simp] theorem holdChange_frame (i : Nat) (r : Rec) (cls : BitVec 2) (s : State) :
    (holdChange i r cls s).pending = s.pending ∧
    (holdChange i r cls s).resetAsserted = s.resetAsserted ∧
    (holdChange i r cls s).cbStraps = s.cbStraps ∧
    (holdChange i r cls s).wallUs = s.wallUs ∧
    (holdChange i r cls s).freeIdx = s.freeIdx ∧
    (holdChange i r cls s).regions = s.regions ∧
    (holdChange i r cls s).dir = s.dir ∧
    (holdChange i r cls s).ovr = s.ovr ∧
    (holdChange i r cls s).stager = s.stager ∧
    (holdChange i r cls s).commit = s.commit ∧
    (holdChange i r cls s).lane = s.lane ∧
    (holdChange i r cls s).cmd = s.cmd ∧
    (holdChange i r cls s).ntc = s.ntc ∧
    (holdChange i r cls s).img = s.img := by
  simp [holdChange]

@[simp] theorem takeUnfiltered_frame (i : Nat) (r : Rec) (s : State) :
    (takeUnfiltered i r s).pending = s.pending ∧
    (takeUnfiltered i r s).resetAsserted = s.resetAsserted ∧
    (takeUnfiltered i r s).cbStraps = s.cbStraps ∧
    (takeUnfiltered i r s).wallUs = s.wallUs ∧
    (takeUnfiltered i r s).freeIdx = s.freeIdx ∧
    (takeUnfiltered i r s).regions = s.regions ∧
    (takeUnfiltered i r s).dir = s.dir ∧
    (takeUnfiltered i r s).ovr = s.ovr ∧
    (takeUnfiltered i r s).merge = s.merge ∧
    (takeUnfiltered i r s).lane = s.lane ∧
    (takeUnfiltered i r s).jrn = s.jrn ∧
    (takeUnfiltered i r s).cmd = s.cmd ∧
    (takeUnfiltered i r s).img = s.img := by
  unfold takeUnfiltered
  repeat' split
  all_goals (try simp)

@[simp] theorem revertChange_frame (i : Nat) (r : Rec) (e : DwellEntry) (s : State) :
    (revertChange i r e s).pending = s.pending ∧
    (revertChange i r e s).resetAsserted = s.resetAsserted ∧
    (revertChange i r e s).cbStraps = s.cbStraps ∧
    (revertChange i r e s).wallUs = s.wallUs ∧
    (revertChange i r e s).freeIdx = s.freeIdx ∧
    (revertChange i r e s).regions = s.regions ∧
    (revertChange i r e s).dir = s.dir ∧
    (revertChange i r e s).ovr = s.ovr ∧
    (revertChange i r e s).lane = s.lane ∧
    (revertChange i r e s).jrn = s.jrn ∧
    (revertChange i r e s).cmd = s.cmd ∧
    (revertChange i r e s).img = s.img := by
  unfold revertChange
  repeat' split
  all_goals (try simp)

@[simp] theorem supersedeChange_frame (i : Nat) (r : Rec) (e : DwellEntry) (s : State) :
    (supersedeChange i r e s).pending = s.pending ∧
    (supersedeChange i r e s).resetAsserted = s.resetAsserted ∧
    (supersedeChange i r e s).cbStraps = s.cbStraps ∧
    (supersedeChange i r e s).wallUs = s.wallUs ∧
    (supersedeChange i r e s).freeIdx = s.freeIdx ∧
    (supersedeChange i r e s).regions = s.regions ∧
    (supersedeChange i r e s).dir = s.dir ∧
    (supersedeChange i r e s).ovr = s.ovr ∧
    (supersedeChange i r e s).stager = s.stager ∧
    (supersedeChange i r e s).commit = s.commit ∧
    (supersedeChange i r e s).lane = s.lane ∧
    (supersedeChange i r e s).cmd = s.cmd ∧
    (supersedeChange i r e s).ntc = s.ntc ∧
    (supersedeChange i r e s).img = s.img := by
  simp [supersedeChange]

@[simp] theorem repeatChange_frame (i : Nat) (r : Rec) (w : PointWord) (s : State) :
    (repeatChange i r w s).pending = s.pending ∧
    (repeatChange i r w s).resetAsserted = s.resetAsserted ∧
    (repeatChange i r w s).cbStraps = s.cbStraps ∧
    (repeatChange i r w s).wallUs = s.wallUs ∧
    (repeatChange i r w s).freeIdx = s.freeIdx ∧
    (repeatChange i r w s).regions = s.regions ∧
    (repeatChange i r w s).dir = s.dir ∧
    (repeatChange i r w s).ovr = s.ovr ∧
    (repeatChange i r w s).merge = s.merge ∧
    (repeatChange i r w s).stager = s.stager ∧
    (repeatChange i r w s).commit = s.commit ∧
    (repeatChange i r w s).lane = s.lane ∧
    (repeatChange i r w s).cmd = s.cmd ∧
    (repeatChange i r w s).ntc = s.ntc ∧
    (repeatChange i r w s).img = s.img := by
  simp [repeatChange]

@[simp] theorem filterDecision_frame (i : Nat) (r : Rec) (cls : BitVec 2) (v : Word32) (s : State) :
    (filterDecision i r cls v s).pending = s.pending ∧
    (filterDecision i r cls v s).resetAsserted = s.resetAsserted ∧
    (filterDecision i r cls v s).cbStraps = s.cbStraps ∧
    (filterDecision i r cls v s).wallUs = s.wallUs ∧
    (filterDecision i r cls v s).freeIdx = s.freeIdx ∧
    (filterDecision i r cls v s).regions = s.regions ∧
    (filterDecision i r cls v s).dir = s.dir ∧
    (filterDecision i r cls v s).ovr = s.ovr ∧
    (filterDecision i r cls v s).lane = s.lane ∧
    (filterDecision i r cls v s).cmd = s.cmd ∧
    (filterDecision i r cls v s).img = s.img := by
  unfold filterDecision
  repeat' split
  all_goals (try simp)

@[simp] theorem readFilter_frame (i : Nat) (r : Rec) (cls : BitVec 2) (b : Bool) (s : State) :
    (readFilter i r cls b s).pending = s.pending ∧
    (readFilter i r cls b s).resetAsserted = s.resetAsserted ∧
    (readFilter i r cls b s).cbStraps = s.cbStraps ∧
    (readFilter i r cls b s).wallUs = s.wallUs ∧
    (readFilter i r cls b s).freeIdx = s.freeIdx ∧
    (readFilter i r cls b s).regions = s.regions ∧
    (readFilter i r cls b s).dir = s.dir ∧
    (readFilter i r cls b s).ovr = s.ovr ∧
    (readFilter i r cls b s).front = s.front ∧
    (readFilter i r cls b s).stager = s.stager ∧
    (readFilter i r cls b s).commit = s.commit ∧
    (readFilter i r cls b s).lane = s.lane ∧
    (readFilter i r cls b s).jrn = s.jrn ∧
    (readFilter i r cls b s).cmd = s.cmd ∧
    (readFilter i r cls b s).ntc = s.ntc ∧
    (readFilter i r cls b s).img = s.img := by
  simp [readFilter]

@[simp] theorem filterRecord_frame (i : Nat) (r : Rec) (cls : BitVec 2) (s : State) :
    (filterRecord i r cls s).pending = s.pending ∧
    (filterRecord i r cls s).resetAsserted = s.resetAsserted ∧
    (filterRecord i r cls s).cbStraps = s.cbStraps ∧
    (filterRecord i r cls s).wallUs = s.wallUs ∧
    (filterRecord i r cls s).freeIdx = s.freeIdx ∧
    (filterRecord i r cls s).regions = s.regions ∧
    (filterRecord i r cls s).dir = s.dir ∧
    (filterRecord i r cls s).ovr = s.ovr ∧
    (filterRecord i r cls s).lane = s.lane ∧
    (filterRecord i r cls s).cmd = s.cmd ∧
    (filterRecord i r cls s).img = s.img := by
  unfold filterRecord
  repeat' split
  all_goals (try simp)

@[simp] theorem pullHead_frame (i : Nat) (r : Rec) (s : State) :
    (pullHead i r s).pending = s.pending ∧
    (pullHead i r s).resetAsserted = s.resetAsserted ∧
    (pullHead i r s).cbStraps = s.cbStraps ∧
    (pullHead i r s).wallUs = s.wallUs ∧
    (pullHead i r s).freeIdx = s.freeIdx ∧
    (pullHead i r s).regions = s.regions ∧
    (pullHead i r s).dir = s.dir ∧
    (pullHead i r s).ovr = s.ovr ∧
    (pullHead i r s).lane = s.lane ∧
    (pullHead i r s).cmd = s.cmd ∧
    (pullHead i r s).img = s.img := by
  simp only [pullHead]
  split <;> simp

@[simp] theorem pull_frame (c : Option (Key × Source)) (s : State) :
    (pull c s).pending = s.pending ∧
    (pull c s).resetAsserted = s.resetAsserted ∧
    (pull c s).cbStraps = s.cbStraps ∧
    (pull c s).wallUs = s.wallUs ∧
    (pull c s).freeIdx = s.freeIdx ∧
    (pull c s).regions = s.regions ∧
    (pull c s).dir = s.dir ∧
    (pull c s).ovr = s.ovr ∧
    (pull c s).lane = s.lane ∧
    (pull c s).cmd = s.cmd ∧
    (pull c s).img = s.img := by
  unfold pull
  repeat' split
  all_goals (try simp)

@[simp] theorem filterRead_frame (op : FilterOp) (r : Ret) (s : State) :
    (filterRead op r s).pending = s.pending ∧
    (filterRead op r s).resetAsserted = s.resetAsserted ∧
    (filterRead op r s).cbStraps = s.cbStraps ∧
    (filterRead op r s).wallUs = s.wallUs ∧
    (filterRead op r s).freeIdx = s.freeIdx ∧
    (filterRead op r s).regions = s.regions ∧
    (filterRead op r s).dir = s.dir ∧
    (filterRead op r s).ovr = s.ovr ∧
    (filterRead op r s).lane = s.lane ∧
    (filterRead op r s).cmd = s.cmd ∧
    (filterRead op r s).img = s.img := by
  simp only [filterRead]
  repeat' split
  all_goals simp

@[simp] theorem issueFetch_frame (i : Nat) (c : Chan) (s : State) :
    (issueFetch i c s).pending = s.pending ∧
    (issueFetch i c s).resetAsserted = s.resetAsserted ∧
    (issueFetch i c s).cbStraps = s.cbStraps ∧
    (issueFetch i c s).wallUs = s.wallUs ∧
    (issueFetch i c s).regions = s.regions ∧
    (issueFetch i c s).dir = s.dir ∧
    (issueFetch i c s).ovr = s.ovr ∧
    (issueFetch i c s).stager = s.stager ∧
    (issueFetch i c s).commit = s.commit ∧
    (issueFetch i c s).jrn = s.jrn ∧
    (issueFetch i c s).cmd = s.cmd ∧
    (issueFetch i c s).img = s.img := by
  simp [issueFetch]

@[simp] theorem dropDiscarded_frame (n : Nat) (s : State) :
    (dropDiscarded n s).pending = s.pending ∧
    (dropDiscarded n s).resetAsserted = s.resetAsserted ∧
    (dropDiscarded n s).cbStraps = s.cbStraps ∧
    (dropDiscarded n s).wallUs = s.wallUs ∧
    (dropDiscarded n s).freeIdx = s.freeIdx ∧
    (dropDiscarded n s).regions = s.regions ∧
    (dropDiscarded n s).dir = s.dir ∧
    (dropDiscarded n s).ovr = s.ovr ∧
    (dropDiscarded n s).merge = s.merge ∧
    (dropDiscarded n s).stager = s.stager ∧
    (dropDiscarded n s).commit = s.commit ∧
    (dropDiscarded n s).lane = s.lane ∧
    (dropDiscarded n s).jrn = s.jrn ∧
    (dropDiscarded n s).cmd = s.cmd ∧
    (dropDiscarded n s).ntc = s.ntc ∧
    (dropDiscarded n s).img = s.img := by
  simp [dropDiscarded]

@[simp] theorem acceptRecord_frame (i : Nat) (ts ct : Time) (seq : Word32) (a : BitVec 64) (s : State) :
    (acceptRecord i ts ct seq a s).pending = s.pending ∧
    (acceptRecord i ts ct seq a s).resetAsserted = s.resetAsserted ∧
    (acceptRecord i ts ct seq a s).cbStraps = s.cbStraps ∧
    (acceptRecord i ts ct seq a s).wallUs = s.wallUs ∧
    (acceptRecord i ts ct seq a s).freeIdx = s.freeIdx ∧
    (acceptRecord i ts ct seq a s).regions = s.regions ∧
    (acceptRecord i ts ct seq a s).dir = s.dir ∧
    (acceptRecord i ts ct seq a s).ovr = s.ovr ∧
    (acceptRecord i ts ct seq a s).merge = s.merge ∧
    (acceptRecord i ts ct seq a s).stager = s.stager ∧
    (acceptRecord i ts ct seq a s).commit = s.commit ∧
    (acceptRecord i ts ct seq a s).lane = s.lane ∧
    (acceptRecord i ts ct seq a s).jrn = s.jrn ∧
    (acceptRecord i ts ct seq a s).cmd = s.cmd ∧
    (acceptRecord i ts ct seq a s).img = s.img := by
  unfold acceptRecord
  repeat' split
  all_goals (try simp)

@[simp] theorem freePlace_frame (i n : Nat) (s : State) :
    (freePlace i n s).pending = s.pending ∧
    (freePlace i n s).resetAsserted = s.resetAsserted ∧
    (freePlace i n s).cbStraps = s.cbStraps ∧
    (freePlace i n s).wallUs = s.wallUs ∧
    (freePlace i n s).freeIdx = s.freeIdx ∧
    (freePlace i n s).path = s.path ∧
    (freePlace i n s).regions = s.regions ∧
    (freePlace i n s).dir = s.dir ∧
    (freePlace i n s).ovr = s.ovr ∧
    (freePlace i n s).merge = s.merge ∧
    (freePlace i n s).stager = s.stager ∧
    (freePlace i n s).commit = s.commit ∧
    (freePlace i n s).lane = s.lane ∧
    (freePlace i n s).jrn = s.jrn ∧
    (freePlace i n s).cmd = s.cmd ∧
    (freePlace i n s).ntc = s.ntc ∧
    (freePlace i n s).img = s.img := by
  simp [freePlace]

@[simp] theorem keepRecord_frame (i n : Nat) (r : Rec) (s : State) :
    (keepRecord i n r s).pending = s.pending ∧
    (keepRecord i n r s).resetAsserted = s.resetAsserted ∧
    (keepRecord i n r s).cbStraps = s.cbStraps ∧
    (keepRecord i n r s).wallUs = s.wallUs ∧
    (keepRecord i n r s).freeIdx = s.freeIdx ∧
    (keepRecord i n r s).path = s.path ∧
    (keepRecord i n r s).regions = s.regions ∧
    (keepRecord i n r s).dir = s.dir ∧
    (keepRecord i n r s).ovr = s.ovr ∧
    (keepRecord i n r s).merge = s.merge ∧
    (keepRecord i n r s).stager = s.stager ∧
    (keepRecord i n r s).commit = s.commit ∧
    (keepRecord i n r s).lane = s.lane ∧
    (keepRecord i n r s).jrn = s.jrn ∧
    (keepRecord i n r s).cmd = s.cmd ∧
    (keepRecord i n r s).ntc = s.ntc ∧
    (keepRecord i n r s).img = s.img := by
  simp [keepRecord]

@[simp] theorem disposeRecord_frame (i n : Nat) (r : Rec) (s : State) :
    (disposeRecord i n r s).pending = s.pending ∧
    (disposeRecord i n r s).resetAsserted = s.resetAsserted ∧
    (disposeRecord i n r s).cbStraps = s.cbStraps ∧
    (disposeRecord i n r s).wallUs = s.wallUs ∧
    (disposeRecord i n r s).freeIdx = s.freeIdx ∧
    (disposeRecord i n r s).regions = s.regions ∧
    (disposeRecord i n r s).dir = s.dir ∧
    (disposeRecord i n r s).ovr = s.ovr ∧
    (disposeRecord i n r s).merge = s.merge ∧
    (disposeRecord i n r s).commit = s.commit ∧
    (disposeRecord i n r s).lane = s.lane ∧
    (disposeRecord i n r s).cmd = s.cmd ∧
    (disposeRecord i n r s).img = s.img := by
  simp only [disposeRecord]
  repeat' split
  all_goals simp

@[simp] theorem loadRecord_frame (i : Nat) (c : Chan) (n : Nat) (pos : Pos) (r : Ret) (s : State) :
    (loadRecord i c n pos r s).pending = s.pending ∧
    (loadRecord i c n pos r s).resetAsserted = s.resetAsserted ∧
    (loadRecord i c n pos r s).cbStraps = s.cbStraps ∧
    (loadRecord i c n pos r s).wallUs = s.wallUs ∧
    (loadRecord i c n pos r s).freeIdx = s.freeIdx ∧
    (loadRecord i c n pos r s).regions = s.regions ∧
    (loadRecord i c n pos r s).dir = s.dir ∧
    (loadRecord i c n pos r s).ovr = s.ovr ∧
    (loadRecord i c n pos r s).merge = s.merge ∧
    (loadRecord i c n pos r s).commit = s.commit ∧
    (loadRecord i c n pos r s).lane = s.lane ∧
    (loadRecord i c n pos r s).cmd = s.cmd ∧
    (loadRecord i c n pos r s).img = s.img := by
  simp only [loadRecord]
  repeat' split
  all_goals simp

@[simp] theorem looseWritten_frame (phys : ChanNo) (tok : Nat) (s : State) :
    (looseWritten phys tok s).pending = s.pending ∧
    (looseWritten phys tok s).resetAsserted = s.resetAsserted ∧
    (looseWritten phys tok s).cbStraps = s.cbStraps ∧
    (looseWritten phys tok s).wallUs = s.wallUs ∧
    (looseWritten phys tok s).freeIdx = s.freeIdx ∧
    (looseWritten phys tok s).path = s.path ∧
    (looseWritten phys tok s).regions = s.regions ∧
    (looseWritten phys tok s).dir = s.dir ∧
    (looseWritten phys tok s).ovr = s.ovr ∧
    (looseWritten phys tok s).merge = s.merge ∧
    (looseWritten phys tok s).stager = s.stager ∧
    (looseWritten phys tok s).commit = s.commit ∧
    (looseWritten phys tok s).lane = s.lane ∧
    (looseWritten phys tok s).jrn = s.jrn ∧
    (looseWritten phys tok s).cmd = s.cmd ∧
    (looseWritten phys tok s).ntc = s.ntc ∧
    (looseWritten phys tok s).img = s.img := by
  unfold looseWritten
  repeat' split
  all_goals (try simp)

@[simp] theorem loseMarks_frame (old : Pos) (l : List Mark) (s : State) :
    (loseMarks old l s).pending = s.pending ∧
    (loseMarks old l s).resetAsserted = s.resetAsserted ∧
    (loseMarks old l s).cbStraps = s.cbStraps ∧
    (loseMarks old l s).wallUs = s.wallUs ∧
    (loseMarks old l s).freeIdx = s.freeIdx ∧
    (loseMarks old l s).regions = s.regions ∧
    (loseMarks old l s).dir = s.dir ∧
    (loseMarks old l s).ovr = s.ovr ∧
    (loseMarks old l s).front = s.front ∧
    (loseMarks old l s).merge = s.merge ∧
    (loseMarks old l s).stager = s.stager ∧
    (loseMarks old l s).commit = s.commit ∧
    (loseMarks old l s).lane = s.lane ∧
    (loseMarks old l s).cmd = s.cmd ∧
    (loseMarks old l s).img = s.img := by
  induction l generalizing s with
  | nil => simp [loseMarks]
  | cons m rest ih =>
    unfold loseMarks
    split
    · simp [ih]
    · simp

@[simp] theorem overwriteOldest_frame (e : Option JEntry) (b : Bool) (s : State) :
    (overwriteOldest e b s).pending = s.pending ∧
    (overwriteOldest e b s).resetAsserted = s.resetAsserted ∧
    (overwriteOldest e b s).cbStraps = s.cbStraps ∧
    (overwriteOldest e b s).wallUs = s.wallUs ∧
    (overwriteOldest e b s).freeIdx = s.freeIdx ∧
    (overwriteOldest e b s).path = s.path ∧
    (overwriteOldest e b s).regions = s.regions ∧
    (overwriteOldest e b s).dir = s.dir ∧
    (overwriteOldest e b s).ovr = s.ovr ∧
    (overwriteOldest e b s).merge = s.merge ∧
    (overwriteOldest e b s).stager = s.stager ∧
    (overwriteOldest e b s).commit = s.commit ∧
    (overwriteOldest e b s).lane = s.lane ∧
    (overwriteOldest e b s).cmd = s.cmd ∧
    (overwriteOldest e b s).img = s.img := by
  simp only [overwriteOldest]
  repeat' split
  all_goals simp

@[simp] theorem wrapJournal_frame (g : Regions) (r : Ret) (s : State) :
    (wrapJournal g r s).pending = s.pending ∧
    (wrapJournal g r s).resetAsserted = s.resetAsserted ∧
    (wrapJournal g r s).cbStraps = s.cbStraps ∧
    (wrapJournal g r s).wallUs = s.wallUs ∧
    (wrapJournal g r s).freeIdx = s.freeIdx ∧
    (wrapJournal g r s).regions = s.regions ∧
    (wrapJournal g r s).dir = s.dir ∧
    (wrapJournal g r s).ovr = s.ovr ∧
    (wrapJournal g r s).merge = s.merge ∧
    (wrapJournal g r s).stager = s.stager ∧
    (wrapJournal g r s).commit = s.commit ∧
    (wrapJournal g r s).lane = s.lane ∧
    (wrapJournal g r s).cmd = s.cmd ∧
    (wrapJournal g r s).img = s.img := by
  simp only [wrapJournal]
  repeat' split
  all_goals simp

@[simp] theorem stopWrap_frame (r : Ret) (s : State) :
    (stopWrap r s).pending = s.pending ∧
    (stopWrap r s).resetAsserted = s.resetAsserted ∧
    (stopWrap r s).cbStraps = s.cbStraps ∧
    (stopWrap r s).wallUs = s.wallUs ∧
    (stopWrap r s).freeIdx = s.freeIdx ∧
    (stopWrap r s).regions = s.regions ∧
    (stopWrap r s).dir = s.dir ∧
    (stopWrap r s).ovr = s.ovr ∧
    (stopWrap r s).front = s.front ∧
    (stopWrap r s).merge = s.merge ∧
    (stopWrap r s).stager = s.stager ∧
    (stopWrap r s).commit = s.commit ∧
    (stopWrap r s).lane = s.lane ∧
    (stopWrap r s).cmd = s.cmd ∧
    (stopWrap r s).ntc = s.ntc ∧
    (stopWrap r s).img = s.img := by
  simp [stopWrap]

@[simp] theorem oldestReturned_frame (g : Regions) (r : Ret) (s : State) :
    (oldestReturned g r s).pending = s.pending ∧
    (oldestReturned g r s).resetAsserted = s.resetAsserted ∧
    (oldestReturned g r s).cbStraps = s.cbStraps ∧
    (oldestReturned g r s).wallUs = s.wallUs ∧
    (oldestReturned g r s).freeIdx = s.freeIdx ∧
    (oldestReturned g r s).regions = s.regions ∧
    (oldestReturned g r s).dir = s.dir ∧
    (oldestReturned g r s).ovr = s.ovr ∧
    (oldestReturned g r s).merge = s.merge ∧
    (oldestReturned g r s).stager = s.stager ∧
    (oldestReturned g r s).commit = s.commit ∧
    (oldestReturned g r s).lane = s.lane ∧
    (oldestReturned g r s).cmd = s.cmd ∧
    (oldestReturned g r s).img = s.img := by
  unfold oldestReturned
  split <;> simp

@[simp] theorem nextItem_frame (s : State) :
    (nextItem  s).pending = s.pending ∧
    (nextItem  s).resetAsserted = s.resetAsserted ∧
    (nextItem  s).cbStraps = s.cbStraps ∧
    (nextItem  s).wallUs = s.wallUs ∧
    (nextItem  s).freeIdx = s.freeIdx ∧
    (nextItem  s).regions = s.regions ∧
    (nextItem  s).dir = s.dir ∧
    (nextItem  s).ovr = s.ovr ∧
    (nextItem  s).front = s.front ∧
    (nextItem  s).merge = s.merge ∧
    (nextItem  s).stager = s.stager ∧
    (nextItem  s).lane = s.lane ∧
    (nextItem  s).cmd = s.cmd ∧
    (nextItem  s).ntc = s.ntc ∧
    (nextItem  s).img = s.img := by
  unfold nextItem
  repeat' split
  all_goals (try simp)

@[simp] theorem beginCommit_frame (s : State) :
    (beginCommit  s).pending = s.pending ∧
    (beginCommit  s).resetAsserted = s.resetAsserted ∧
    (beginCommit  s).cbStraps = s.cbStraps ∧
    (beginCommit  s).wallUs = s.wallUs ∧
    (beginCommit  s).freeIdx = s.freeIdx ∧
    (beginCommit  s).regions = s.regions ∧
    (beginCommit  s).dir = s.dir ∧
    (beginCommit  s).ovr = s.ovr ∧
    (beginCommit  s).front = s.front ∧
    (beginCommit  s).merge = s.merge ∧
    (beginCommit  s).stager = s.stager ∧
    (beginCommit  s).lane = s.lane ∧
    (beginCommit  s).cmd = s.cmd ∧
    (beginCommit  s).ntc = s.ntc ∧
    (beginCommit  s).img = s.img := by
  simp [beginCommit]

@[simp] theorem commitWord_frame (p : PointNo) (a b : PointWord) (s : State) :
    (commitWord p a b s).pending = s.pending ∧
    (commitWord p a b s).resetAsserted = s.resetAsserted ∧
    (commitWord p a b s).cbStraps = s.cbStraps ∧
    (commitWord p a b s).wallUs = s.wallUs ∧
    (commitWord p a b s).freeIdx = s.freeIdx ∧
    (commitWord p a b s).regions = s.regions ∧
    (commitWord p a b s).dir = s.dir ∧
    (commitWord p a b s).ovr = s.ovr ∧
    (commitWord p a b s).front = s.front ∧
    (commitWord p a b s).merge = s.merge ∧
    (commitWord p a b s).stager = s.stager ∧
    (commitWord p a b s).lane = s.lane ∧
    (commitWord p a b s).jrn = s.jrn ∧
    (commitWord p a b s).cmd = s.cmd ∧
    (commitWord p a b s).ntc = s.ntc ∧
    (commitWord p a b s).img = s.img := by
  simp [commitWord]

@[simp] theorem handGroup_frame (e : JEntry) (s : State) :
    (handGroup e s).pending = s.pending ∧
    (handGroup e s).resetAsserted = s.resetAsserted ∧
    (handGroup e s).cbStraps = s.cbStraps ∧
    (handGroup e s).wallUs = s.wallUs ∧
    (handGroup e s).freeIdx = s.freeIdx ∧
    (handGroup e s).regions = s.regions ∧
    (handGroup e s).dir = s.dir ∧
    (handGroup e s).ovr = s.ovr ∧
    (handGroup e s).front = s.front ∧
    (handGroup e s).merge = s.merge ∧
    (handGroup e s).stager = s.stager ∧
    (handGroup e s).commit = s.commit ∧
    (handGroup e s).lane = s.lane ∧
    (handGroup e s).cmd = s.cmd ∧
    (handGroup e s).ntc = s.ntc ∧
    (handGroup e s).img = s.img := by
  simp [handGroup]

@[simp] theorem endOnce_frame (it : Item) (p : PointNo) (s : State) :
    (endOnce it p s).pending = s.pending ∧
    (endOnce it p s).resetAsserted = s.resetAsserted ∧
    (endOnce it p s).cbStraps = s.cbStraps ∧
    (endOnce it p s).wallUs = s.wallUs ∧
    (endOnce it p s).freeIdx = s.freeIdx ∧
    (endOnce it p s).regions = s.regions ∧
    (endOnce it p s).dir = s.dir ∧
    (endOnce it p s).front = s.front ∧
    (endOnce it p s).merge = s.merge ∧
    (endOnce it p s).stager = s.stager ∧
    (endOnce it p s).commit = s.commit ∧
    (endOnce it p s).lane = s.lane ∧
    (endOnce it p s).jrn = s.jrn ∧
    (endOnce it p s).cmd = s.cmd ∧
    (endOnce it p s).img = s.img := by
  unfold endOnce
  repeat' split
  all_goals (try simp)

@[simp] theorem applyItem_frame (it : Item) (p : PointNo) (v : Word32) (q : BitVec 8) (u d : Bool) (a : Option (BitVec 64)) (old : PointWord) (s : State) :
    (applyItem it p v q u d a old s).pending = s.pending ∧
    (applyItem it p v q u d a old s).resetAsserted = s.resetAsserted ∧
    (applyItem it p v q u d a old s).cbStraps = s.cbStraps ∧
    (applyItem it p v q u d a old s).wallUs = s.wallUs ∧
    (applyItem it p v q u d a old s).freeIdx = s.freeIdx ∧
    (applyItem it p v q u d a old s).regions = s.regions ∧
    (applyItem it p v q u d a old s).front = s.front ∧
    (applyItem it p v q u d a old s).merge = s.merge ∧
    (applyItem it p v q u d a old s).stager = s.stager ∧
    (applyItem it p v q u d a old s).lane = s.lane ∧
    (applyItem it p v q u d a old s).cmd = s.cmd ∧
    (applyItem it p v q u d a old s).img = s.img := by
  simp [applyItem]

@[simp] theorem commitRecord_frame (it : Item) (p : PointNo) (v : Word32) (q : BitVec 8) (a : BitVec 64) (u : Bool) (old : PointWord) (s : State) :
    (commitRecord it p v q a u old s).pending = s.pending ∧
    (commitRecord it p v q a u old s).resetAsserted = s.resetAsserted ∧
    (commitRecord it p v q a u old s).cbStraps = s.cbStraps ∧
    (commitRecord it p v q a u old s).wallUs = s.wallUs ∧
    (commitRecord it p v q a u old s).freeIdx = s.freeIdx ∧
    (commitRecord it p v q a u old s).regions = s.regions ∧
    (commitRecord it p v q a u old s).front = s.front ∧
    (commitRecord it p v q a u old s).merge = s.merge ∧
    (commitRecord it p v q a u old s).stager = s.stager ∧
    (commitRecord it p v q a u old s).lane = s.lane ∧
    (commitRecord it p v q a u old s).cmd = s.cmd ∧
    (commitRecord it p v q a u old s).img = s.img := by
  unfold commitRecord
  repeat' split
  all_goals (try simp)

@[simp] theorem commitChatter_frame (it : Item) (p : PointNo) (h : HeldItem) (rel : Time) (old : PointWord) (s : State) :
    (commitChatter it p h rel old s).pending = s.pending ∧
    (commitChatter it p h rel old s).resetAsserted = s.resetAsserted ∧
    (commitChatter it p h rel old s).cbStraps = s.cbStraps ∧
    (commitChatter it p h rel old s).wallUs = s.wallUs ∧
    (commitChatter it p h rel old s).freeIdx = s.freeIdx ∧
    (commitChatter it p h rel old s).regions = s.regions ∧
    (commitChatter it p h rel old s).dir = s.dir ∧
    (commitChatter it p h rel old s).ovr = s.ovr ∧
    (commitChatter it p h rel old s).front = s.front ∧
    (commitChatter it p h rel old s).merge = s.merge ∧
    (commitChatter it p h rel old s).stager = s.stager ∧
    (commitChatter it p h rel old s).lane = s.lane ∧
    (commitChatter it p h rel old s).cmd = s.cmd ∧
    (commitChatter it p h rel old s).ntc = s.ntc ∧
    (commitChatter it p h rel old s).img = s.img := by
  simp [commitChatter]

@[simp] theorem commitMarker_frame (it : Item) (p : PointNo) (v : Word32) (a : BitVec 64) (s : State) :
    (commitMarker it p v a s).pending = s.pending ∧
    (commitMarker it p v a s).resetAsserted = s.resetAsserted ∧
    (commitMarker it p v a s).cbStraps = s.cbStraps ∧
    (commitMarker it p v a s).wallUs = s.wallUs ∧
    (commitMarker it p v a s).freeIdx = s.freeIdx ∧
    (commitMarker it p v a s).regions = s.regions ∧
    (commitMarker it p v a s).dir = s.dir ∧
    (commitMarker it p v a s).ovr = s.ovr ∧
    (commitMarker it p v a s).front = s.front ∧
    (commitMarker it p v a s).merge = s.merge ∧
    (commitMarker it p v a s).stager = s.stager ∧
    (commitMarker it p v a s).commit = s.commit ∧
    (commitMarker it p v a s).lane = s.lane ∧
    (commitMarker it p v a s).cmd = s.cmd ∧
    (commitMarker it p v a s).img = s.img := by
  simp [commitMarker]

@[simp] theorem commitOne_frame (it : Item) (old : PointWord) (s : State) :
    (commitOne it old s).pending = s.pending ∧
    (commitOne it old s).resetAsserted = s.resetAsserted ∧
    (commitOne it old s).cbStraps = s.cbStraps ∧
    (commitOne it old s).wallUs = s.wallUs ∧
    (commitOne it old s).freeIdx = s.freeIdx ∧
    (commitOne it old s).regions = s.regions ∧
    (commitOne it old s).front = s.front ∧
    (commitOne it old s).merge = s.merge ∧
    (commitOne it old s).stager = s.stager ∧
    (commitOne it old s).lane = s.lane ∧
    (commitOne it old s).cmd = s.cmd ∧
    (commitOne it old s).img = s.img := by
  unfold commitOne
  repeat' split
  all_goals (try simp)

@[simp] theorem clearReading_frame (f : Flight) (s : State) :
    (clearReading f s).pending = s.pending ∧
    (clearReading f s).resetAsserted = s.resetAsserted ∧
    (clearReading f s).cbStraps = s.cbStraps ∧
    (clearReading f s).wallUs = s.wallUs ∧
    (clearReading f s).freeIdx = s.freeIdx ∧
    (clearReading f s).regions = s.regions ∧
    (clearReading f s).dir = s.dir ∧
    (clearReading f s).ovr = s.ovr ∧
    (clearReading f s).front = s.front ∧
    (clearReading f s).merge = s.merge ∧
    (clearReading f s).stager = s.stager ∧
    (clearReading f s).lane = s.lane ∧
    (clearReading f s).jrn = s.jrn ∧
    (clearReading f s).cmd = s.cmd ∧
    (clearReading f s).ntc = s.ntc ∧
    (clearReading f s).img = s.img := by
  unfold clearReading
  repeat' split
  all_goals (try simp)

@[simp] theorem takeItem_frame (f : Flight) (it : Item) (old : PointWord) (s : State) :
    (takeItem f it old s).pending = s.pending ∧
    (takeItem f it old s).resetAsserted = s.resetAsserted ∧
    (takeItem f it old s).cbStraps = s.cbStraps ∧
    (takeItem f it old s).wallUs = s.wallUs ∧
    (takeItem f it old s).freeIdx = s.freeIdx ∧
    (takeItem f it old s).regions = s.regions ∧
    (takeItem f it old s).front = s.front ∧
    (takeItem f it old s).merge = s.merge ∧
    (takeItem f it old s).stager = s.stager ∧
    (takeItem f it old s).lane = s.lane ∧
    (takeItem f it old s).cmd = s.cmd ∧
    (takeItem f it old s).img = s.img := by
  simp [takeItem]

@[simp] theorem postHit_frame (f : Flight) (g : Word32) (s : State) (k : Nat) :
    (postHit f g s k).pending = s.pending ∧
    (postHit f g s k).resetAsserted = s.resetAsserted ∧
    (postHit f g s k).cbStraps = s.cbStraps ∧
    (postHit f g s k).wallUs = s.wallUs ∧
    (postHit f g s k).freeIdx = s.freeIdx ∧
    (postHit f g s k).regions = s.regions ∧
    (postHit f g s k).dir = s.dir ∧
    (postHit f g s k).ovr = s.ovr ∧
    (postHit f g s k).front = s.front ∧
    (postHit f g s k).merge = s.merge ∧
    (postHit f g s k).stager = s.stager ∧
    (postHit f g s k).commit = s.commit ∧
    (postHit f g s k).lane = s.lane ∧
    (postHit f g s k).jrn = s.jrn ∧
    (postHit f g s k).cmd = s.cmd ∧
    (postHit f g s k).img = s.img := by
  unfold postHit
  repeat' split
  all_goals (try simp)

@[simp] theorem countStop_frame (s : State) :
    ((countStop s).1).pending = s.pending ∧
    ((countStop s).1).resetAsserted = s.resetAsserted ∧
    ((countStop s).1).cbStraps = s.cbStraps ∧
    ((countStop s).1).wallUs = s.wallUs ∧
    ((countStop s).1).freeIdx = s.freeIdx ∧
    ((countStop s).1).regions = s.regions ∧
    ((countStop s).1).dir = s.dir ∧
    ((countStop s).1).ovr = s.ovr ∧
    ((countStop s).1).front = s.front ∧
    ((countStop s).1).merge = s.merge ∧
    ((countStop s).1).stager = s.stager ∧
    ((countStop s).1).commit = s.commit ∧
    ((countStop s).1).jrn = s.jrn ∧
    ((countStop s).1).cmd = s.cmd ∧
    ((countStop s).1).img = s.img := by
  unfold countStop
  repeat' split
  all_goals (try simp)

@[simp] theorem countStep_frame (s : State) :
    ((countStep s).1).pending = s.pending ∧
    ((countStep s).1).resetAsserted = s.resetAsserted ∧
    ((countStep s).1).cbStraps = s.cbStraps ∧
    ((countStep s).1).wallUs = s.wallUs ∧
    ((countStep s).1).freeIdx = s.freeIdx ∧
    ((countStep s).1).path = s.path ∧
    ((countStep s).1).regions = s.regions ∧
    ((countStep s).1).dir = s.dir ∧
    ((countStep s).1).ovr = s.ovr ∧
    ((countStep s).1).front = s.front ∧
    ((countStep s).1).merge = s.merge ∧
    ((countStep s).1).stager = s.stager ∧
    ((countStep s).1).commit = s.commit ∧
    ((countStep s).1).jrn = s.jrn ∧
    ((countStep s).1).cmd = s.cmd ∧
    ((countStep s).1).ntc = s.ntc ∧
    ((countStep s).1).img = s.img := by
  unfold countStep
  repeat' split
  all_goals (try simp)

@[simp] theorem stepDone_frame (s : State) :
    (stepDone  s).pending = s.pending ∧
    (stepDone  s).resetAsserted = s.resetAsserted ∧
    (stepDone  s).cbStraps = s.cbStraps ∧
    (stepDone  s).wallUs = s.wallUs ∧
    (stepDone  s).freeIdx = s.freeIdx ∧
    (stepDone  s).regions = s.regions ∧
    (stepDone  s).dir = s.dir ∧
    (stepDone  s).ovr = s.ovr ∧
    (stepDone  s).front = s.front ∧
    (stepDone  s).merge = s.merge ∧
    (stepDone  s).stager = s.stager ∧
    (stepDone  s).commit = s.commit ∧
    (stepDone  s).jrn = s.jrn ∧
    (stepDone  s).cmd = s.cmd ∧
    (stepDone  s).img = s.img := by
  simp [stepDone]

@[simp] theorem decideBoundary_frame (a b c d : Bool) (s : State) :
    (decideBoundary a b c d s).pending = s.pending ∧
    (decideBoundary a b c d s).resetAsserted = s.resetAsserted ∧
    (decideBoundary a b c d s).cbStraps = s.cbStraps ∧
    (decideBoundary a b c d s).wallUs = s.wallUs ∧
    (decideBoundary a b c d s).freeIdx = s.freeIdx ∧
    (decideBoundary a b c d s).regions = s.regions ∧
    (decideBoundary a b c d s).dir = s.dir ∧
    (decideBoundary a b c d s).ovr = s.ovr ∧
    (decideBoundary a b c d s).front = s.front ∧
    (decideBoundary a b c d s).merge = s.merge ∧
    (decideBoundary a b c d s).stager = s.stager ∧
    (decideBoundary a b c d s).commit = s.commit ∧
    (decideBoundary a b c d s).jrn = s.jrn ∧
    (decideBoundary a b c d s).cmd = s.cmd ∧
    (decideBoundary a b c d s).img = s.img := by
  simp only [decideBoundary]
  repeat' split
  all_goals simp

@[simp] theorem handleBoundary_frame (w : Bool) (s : State) :
    (handleBoundary w s).pending = s.pending ∧
    (handleBoundary w s).resetAsserted = s.resetAsserted ∧
    (handleBoundary w s).cbStraps = s.cbStraps ∧
    (handleBoundary w s).wallUs = s.wallUs ∧
    (handleBoundary w s).regions = s.regions ∧
    (handleBoundary w s).dir = s.dir ∧
    (handleBoundary w s).ovr = s.ovr ∧
    (handleBoundary w s).merge = s.merge ∧
    (handleBoundary w s).commit = s.commit ∧
    (handleBoundary w s).cmd = s.cmd ∧
    (handleBoundary w s).img = s.img := by
  simp [handleBoundary]

@[simp] theorem advanceGroup_frame (f : Flight) (s : State) :
    (advanceGroup f s).pending = s.pending ∧
    (advanceGroup f s).resetAsserted = s.resetAsserted ∧
    (advanceGroup f s).cbStraps = s.cbStraps ∧
    (advanceGroup f s).wallUs = s.wallUs ∧
    (advanceGroup f s).freeIdx = s.freeIdx ∧
    (advanceGroup f s).regions = s.regions ∧
    (advanceGroup f s).dir = s.dir ∧
    (advanceGroup f s).ovr = s.ovr ∧
    (advanceGroup f s).merge = s.merge ∧
    (advanceGroup f s).commit = s.commit ∧
    (advanceGroup f s).cmd = s.cmd ∧
    (advanceGroup f s).img = s.img := by
  simp only [advanceGroup]
  split <;> simp

@[simp] theorem clearFlight_frame (s : State) :
    (clearFlight  s).pending = s.pending ∧
    (clearFlight  s).resetAsserted = s.resetAsserted ∧
    (clearFlight  s).cbStraps = s.cbStraps ∧
    (clearFlight  s).wallUs = s.wallUs ∧
    (clearFlight  s).freeIdx = s.freeIdx ∧
    (clearFlight  s).regions = s.regions ∧
    (clearFlight  s).dir = s.dir ∧
    (clearFlight  s).ovr = s.ovr ∧
    (clearFlight  s).front = s.front ∧
    (clearFlight  s).merge = s.merge ∧
    (clearFlight  s).stager = s.stager ∧
    (clearFlight  s).lane = s.lane ∧
    (clearFlight  s).jrn = s.jrn ∧
    (clearFlight  s).cmd = s.cmd ∧
    (clearFlight  s).ntc = s.ntc ∧
    (clearFlight  s).img = s.img := by
  simp [clearFlight]

@[simp] theorem commitBoundary_frame (f : Flight) (s : State) :
    (commitBoundary f s).pending = s.pending ∧
    (commitBoundary f s).resetAsserted = s.resetAsserted ∧
    (commitBoundary f s).cbStraps = s.cbStraps ∧
    (commitBoundary f s).wallUs = s.wallUs ∧
    (commitBoundary f s).regions = s.regions ∧
    (commitBoundary f s).dir = s.dir ∧
    (commitBoundary f s).ovr = s.ovr ∧
    (commitBoundary f s).cmd = s.cmd ∧
    (commitBoundary f s).img = s.img := by
  have h := foldl_keeps (fun u : State => (u.pending, u.resetAsserted, u.cbStraps, u.wallUs, u.regions, u.dir, u.ovr, u.cmd, u.img)) (postHit f s.lane.group) (fun _ _ => by simp)
  simp only [Prod.mk.injEq] at h
  simp [commitBoundary, h]

@[simp] theorem stopNotices_frame (s : State) :
    (stopNotices  s).pending = s.pending ∧
    (stopNotices  s).resetAsserted = s.resetAsserted ∧
    (stopNotices  s).cbStraps = s.cbStraps ∧
    (stopNotices  s).wallUs = s.wallUs ∧
    (stopNotices  s).freeIdx = s.freeIdx ∧
    (stopNotices  s).path = s.path ∧
    (stopNotices  s).regions = s.regions ∧
    (stopNotices  s).dir = s.dir ∧
    (stopNotices  s).ovr = s.ovr ∧
    (stopNotices  s).front = s.front ∧
    (stopNotices  s).merge = s.merge ∧
    (stopNotices  s).stager = s.stager ∧
    (stopNotices  s).commit = s.commit ∧
    (stopNotices  s).lane = s.lane ∧
    (stopNotices  s).jrn = s.jrn ∧
    (stopNotices  s).cmd = s.cmd ∧
    (stopNotices  s).img = s.img := by
  simp [stopNotices]

@[simp] theorem failCapture_frame (s : State) :
    (failCapture  s).pending = s.pending ∧
    (failCapture  s).resetAsserted = s.resetAsserted ∧
    (failCapture  s).cbStraps = s.cbStraps ∧
    (failCapture  s).wallUs = s.wallUs ∧
    (failCapture  s).freeIdx = s.freeIdx ∧
    (failCapture  s).regions = s.regions ∧
    (failCapture  s).dir = s.dir ∧
    (failCapture  s).ovr = s.ovr ∧
    (failCapture  s).front = s.front ∧
    (failCapture  s).merge = s.merge ∧
    (failCapture  s).stager = s.stager ∧
    (failCapture  s).commit = s.commit ∧
    (failCapture  s).lane = s.lane ∧
    (failCapture  s).jrn = s.jrn ∧
    (failCapture  s).img = s.img := by
  simp [failCapture]

@[simp] theorem ownError_frame (r : Ret) (c : FaultCode) (s : State) :
    (ownError r c s).pending = s.pending ∧
    (ownError r c s).resetAsserted = s.resetAsserted ∧
    (ownError r c s).cbStraps = s.cbStraps ∧
    (ownError r c s).wallUs = s.wallUs ∧
    (ownError r c s).regions = s.regions ∧
    (ownError r c s).ovr = s.ovr ∧
    (ownError r c s).stager = s.stager := by
  simp only [ownError]
  repeat' split
  all_goals simp

@[simp] theorem passMarks_frame (s : State) :
    (passMarks  s).pending = s.pending ∧
    (passMarks  s).resetAsserted = s.resetAsserted ∧
    (passMarks  s).cbStraps = s.cbStraps ∧
    (passMarks  s).wallUs = s.wallUs ∧
    (passMarks  s).freeIdx = s.freeIdx ∧
    (passMarks  s).path = s.path ∧
    (passMarks  s).regions = s.regions ∧
    (passMarks  s).dir = s.dir ∧
    (passMarks  s).ovr = s.ovr ∧
    (passMarks  s).front = s.front ∧
    (passMarks  s).merge = s.merge ∧
    (passMarks  s).stager = s.stager ∧
    (passMarks  s).commit = s.commit ∧
    (passMarks  s).lane = s.lane ∧
    (passMarks  s).cmd = s.cmd ∧
    (passMarks  s).img = s.img := by
  simp only [passMarks]
  repeat' split
  all_goals simp

@[simp] theorem resumeChannels_frame (s : State) :
    (resumeChannels  s).pending = s.pending ∧
    (resumeChannels  s).resetAsserted = s.resetAsserted ∧
    (resumeChannels  s).cbStraps = s.cbStraps ∧
    (resumeChannels  s).wallUs = s.wallUs ∧
    (resumeChannels  s).regions = s.regions ∧
    (resumeChannels  s).dir = s.dir ∧
    (resumeChannels  s).ovr = s.ovr ∧
    (resumeChannels  s).merge = s.merge ∧
    (resumeChannels  s).stager = s.stager ∧
    (resumeChannels  s).commit = s.commit ∧
    (resumeChannels  s).lane = s.lane ∧
    (resumeChannels  s).jrn = s.jrn ∧
    (resumeChannels  s).cmd = s.cmd ∧
    (resumeChannels  s).img = s.img := by
  simp [resumeChannels]

@[simp] theorem postRewindEnded_frame (w : Walk) (x : RewindOutcome) (s : State) :
    (postRewindEnded w x s).pending = s.pending ∧
    (postRewindEnded w x s).resetAsserted = s.resetAsserted ∧
    (postRewindEnded w x s).cbStraps = s.cbStraps ∧
    (postRewindEnded w x s).wallUs = s.wallUs ∧
    (postRewindEnded w x s).freeIdx = s.freeIdx ∧
    (postRewindEnded w x s).regions = s.regions ∧
    (postRewindEnded w x s).dir = s.dir ∧
    (postRewindEnded w x s).ovr = s.ovr ∧
    (postRewindEnded w x s).front = s.front ∧
    (postRewindEnded w x s).merge = s.merge ∧
    (postRewindEnded w x s).stager = s.stager ∧
    (postRewindEnded w x s).commit = s.commit ∧
    (postRewindEnded w x s).lane = s.lane ∧
    (postRewindEnded w x s).jrn = s.jrn ∧
    (postRewindEnded w x s).cmd = s.cmd ∧
    (postRewindEnded w x s).img = s.img := by
  simp [postRewindEnded]

@[simp] theorem finishRewind_frame (w : Walk) (x : RewindOutcome) (s : State) :
    (finishRewind w x s).pending = s.pending ∧
    (finishRewind w x s).resetAsserted = s.resetAsserted ∧
    (finishRewind w x s).cbStraps = s.cbStraps ∧
    (finishRewind w x s).wallUs = s.wallUs ∧
    (finishRewind w x s).regions = s.regions ∧
    (finishRewind w x s).dir = s.dir ∧
    (finishRewind w x s).ovr = s.ovr ∧
    (finishRewind w x s).commit = s.commit ∧
    (finishRewind w x s).cmd = s.cmd ∧
    (finishRewind w x s).img = s.img := by
  simp [finishRewind]

@[simp] theorem flushHeads_frame (s : State) :
    (flushHeads  s).pending = s.pending ∧
    (flushHeads  s).resetAsserted = s.resetAsserted ∧
    (flushHeads  s).cbStraps = s.cbStraps ∧
    (flushHeads  s).wallUs = s.wallUs ∧
    (flushHeads  s).freeIdx = s.freeIdx ∧
    (flushHeads  s).path = s.path ∧
    (flushHeads  s).regions = s.regions ∧
    (flushHeads  s).dir = s.dir ∧
    (flushHeads  s).ovr = s.ovr ∧
    (flushHeads  s).merge = s.merge ∧
    (flushHeads  s).stager = s.stager ∧
    (flushHeads  s).commit = s.commit ∧
    (flushHeads  s).lane = s.lane ∧
    (flushHeads  s).jrn = s.jrn ∧
    (flushHeads  s).cmd = s.cmd ∧
    (flushHeads  s).ntc = s.ntc ∧
    (flushHeads  s).img = s.img := by
  simp [flushHeads]

@[simp] theorem flushChannels_frame (s : State) :
    (flushChannels s).pending = s.pending ∧
    (flushChannels s).resetAsserted = s.resetAsserted ∧
    (flushChannels s).cbStraps = s.cbStraps ∧
    (flushChannels s).wallUs = s.wallUs ∧
    (flushChannels s).regions = s.regions ∧
    (flushChannels s).dir = s.dir ∧
    (flushChannels s).ovr = s.ovr ∧
    (flushChannels s).merge = s.merge ∧
    (flushChannels s).stager = s.stager ∧
    (flushChannels s).commit = s.commit ∧
    (flushChannels s).lane = s.lane ∧
    (flushChannels s).jrn = s.jrn ∧
    (flushChannels s).cmd = s.cmd ∧
    (flushChannels s).img = s.img := by
  have h := foldl_keeps (fun u : State => (u.pending, u.resetAsserted, u.cbStraps, u.wallUs, u.regions, u.dir, u.ovr, u.merge, u.stager, u.commit, u.lane, u.jrn, u.cmd, u.img)) recomputeChan (fun _ _ => by simp)
  simp only [Prod.mk.injEq] at h
  simp [flushChannels, h]

@[simp] theorem walkOn_frame (s : State) :
    (walkOn  s).pending = s.pending ∧
    (walkOn  s).resetAsserted = s.resetAsserted ∧
    (walkOn  s).cbStraps = s.cbStraps ∧
    (walkOn  s).wallUs = s.wallUs ∧
    (walkOn  s).regions = s.regions ∧
    (walkOn  s).dir = s.dir ∧
    (walkOn  s).ovr = s.ovr ∧
    (walkOn  s).commit = s.commit ∧
    (walkOn  s).cmd = s.cmd ∧
    (walkOn  s).img = s.img := by
  unfold walkOn
  repeat' split
  all_goals (try simp)

@[simp] theorem startRewind_frame (w : Walk) (s : State) :
    (startRewind w s).pending = s.pending ∧
    (startRewind w s).resetAsserted = s.resetAsserted ∧
    (startRewind w s).cbStraps = s.cbStraps ∧
    (startRewind w s).wallUs = s.wallUs ∧
    (startRewind w s).regions = s.regions ∧
    (startRewind w s).dir = s.dir ∧
    (startRewind w s).ovr = s.ovr ∧
    (startRewind w s).commit = s.commit ∧
    (startRewind w s).img = s.img := by
  simp only [startRewind]
  split <;> simp

@[simp] theorem readEntry_frame (s : State) :
    (readEntry  s).pending = s.pending ∧
    (readEntry  s).resetAsserted = s.resetAsserted ∧
    (readEntry  s).cbStraps = s.cbStraps ∧
    (readEntry  s).wallUs = s.wallUs ∧
    (readEntry  s).freeIdx = s.freeIdx ∧
    (readEntry  s).regions = s.regions ∧
    (readEntry  s).dir = s.dir ∧
    (readEntry  s).ovr = s.ovr ∧
    (readEntry  s).front = s.front ∧
    (readEntry  s).merge = s.merge ∧
    (readEntry  s).stager = s.stager ∧
    (readEntry  s).commit = s.commit ∧
    (readEntry  s).lane = s.lane ∧
    (readEntry  s).cmd = s.cmd ∧
    (readEntry  s).ntc = s.ntc ∧
    (readEntry  s).img = s.img := by
  simp [readEntry]

@[simp] theorem beginStep_frame (s : State) :
    (beginStep  s).pending = s.pending ∧
    (beginStep  s).resetAsserted = s.resetAsserted ∧
    (beginStep  s).cbStraps = s.cbStraps ∧
    (beginStep  s).wallUs = s.wallUs ∧
    (beginStep  s).freeIdx = s.freeIdx ∧
    (beginStep  s).regions = s.regions ∧
    (beginStep  s).dir = s.dir ∧
    (beginStep  s).ovr = s.ovr ∧
    (beginStep  s).front = s.front ∧
    (beginStep  s).merge = s.merge ∧
    (beginStep  s).stager = s.stager ∧
    (beginStep  s).lane = s.lane ∧
    (beginStep  s).cmd = s.cmd ∧
    (beginStep  s).ntc = s.ntc ∧
    (beginStep  s).img = s.img := by
  simp [beginStep]

@[simp] theorem undoWord_frame (p : PointNo) (a b : PointWord) (s : State) :
    (undoWord p a b s).pending = s.pending ∧
    (undoWord p a b s).resetAsserted = s.resetAsserted ∧
    (undoWord p a b s).cbStraps = s.cbStraps ∧
    (undoWord p a b s).wallUs = s.wallUs ∧
    (undoWord p a b s).freeIdx = s.freeIdx ∧
    (undoWord p a b s).regions = s.regions ∧
    (undoWord p a b s).dir = s.dir ∧
    (undoWord p a b s).ovr = s.ovr ∧
    (undoWord p a b s).front = s.front ∧
    (undoWord p a b s).merge = s.merge ∧
    (undoWord p a b s).stager = s.stager ∧
    (undoWord p a b s).commit = s.commit ∧
    (undoWord p a b s).lane = s.lane ∧
    (undoWord p a b s).cmd = s.cmd ∧
    (undoWord p a b s).ntc = s.ntc ∧
    (undoWord p a b s).img = s.img := by
  simp [undoWord]

@[simp] theorem reinsert_frame (e : DwellEntry) (s : State) :
    (reinsert e s).pending = s.pending ∧
    (reinsert e s).resetAsserted = s.resetAsserted ∧
    (reinsert e s).cbStraps = s.cbStraps ∧
    (reinsert e s).wallUs = s.wallUs ∧
    (reinsert e s).freeIdx = s.freeIdx ∧
    (reinsert e s).path = s.path ∧
    (reinsert e s).regions = s.regions ∧
    (reinsert e s).dir = s.dir ∧
    (reinsert e s).ovr = s.ovr ∧
    (reinsert e s).front = s.front ∧
    (reinsert e s).stager = s.stager ∧
    (reinsert e s).commit = s.commit ∧
    (reinsert e s).lane = s.lane ∧
    (reinsert e s).jrn = s.jrn ∧
    (reinsert e s).cmd = s.cmd ∧
    (reinsert e s).ntc = s.ntc ∧
    (reinsert e s).img = s.img := by
  simp [reinsert]

@[simp] theorem reinsertRelease_frame (p : PointNo) (pos : Pos) (lead : BitVec 16) (w : PointWord) (s : State) :
    (reinsertRelease p pos lead w s).pending = s.pending ∧
    (reinsertRelease p pos lead w s).resetAsserted = s.resetAsserted ∧
    (reinsertRelease p pos lead w s).cbStraps = s.cbStraps ∧
    (reinsertRelease p pos lead w s).wallUs = s.wallUs ∧
    (reinsertRelease p pos lead w s).path = s.path ∧
    (reinsertRelease p pos lead w s).regions = s.regions ∧
    (reinsertRelease p pos lead w s).dir = s.dir ∧
    (reinsertRelease p pos lead w s).ovr = s.ovr ∧
    (reinsertRelease p pos lead w s).front = s.front ∧
    (reinsertRelease p pos lead w s).stager = s.stager ∧
    (reinsertRelease p pos lead w s).commit = s.commit ∧
    (reinsertRelease p pos lead w s).lane = s.lane ∧
    (reinsertRelease p pos lead w s).jrn = s.jrn ∧
    (reinsertRelease p pos lead w s).cmd = s.cmd ∧
    (reinsertRelease p pos lead w s).ntc = s.ntc ∧
    (reinsertRelease p pos lead w s).img = s.img := by
  simp only [reinsertRelease]
  split <;> simp

@[simp] theorem undoEffect_frame (e : JEntry) (w : PointWord) (s : State) :
    (undoEffect e w s).pending = s.pending ∧
    (undoEffect e w s).resetAsserted = s.resetAsserted ∧
    (undoEffect e w s).cbStraps = s.cbStraps ∧
    (undoEffect e w s).wallUs = s.wallUs ∧
    (undoEffect e w s).regions = s.regions ∧
    (undoEffect e w s).ovr = s.ovr ∧
    (undoEffect e w s).stager = s.stager ∧
    (undoEffect e w s).commit = s.commit ∧
    (undoEffect e w s).cmd = s.cmd ∧
    (undoEffect e w s).ntc = s.ntc ∧
    (undoEffect e w s).img = s.img := by
  unfold undoEffect
  split
  all_goals (try simp)
  split <;> simp

@[simp] theorem takeCursorBack_frame (e : JEntry) (s : State) :
    (takeCursorBack e s).pending = s.pending ∧
    (takeCursorBack e s).resetAsserted = s.resetAsserted ∧
    (takeCursorBack e s).cbStraps = s.cbStraps ∧
    (takeCursorBack e s).wallUs = s.wallUs ∧
    (takeCursorBack e s).freeIdx = s.freeIdx ∧
    (takeCursorBack e s).path = s.path ∧
    (takeCursorBack e s).regions = s.regions ∧
    (takeCursorBack e s).dir = s.dir ∧
    (takeCursorBack e s).ovr = s.ovr ∧
    (takeCursorBack e s).merge = s.merge ∧
    (takeCursorBack e s).stager = s.stager ∧
    (takeCursorBack e s).commit = s.commit ∧
    (takeCursorBack e s).lane = s.lane ∧
    (takeCursorBack e s).jrn = s.jrn ∧
    (takeCursorBack e s).cmd = s.cmd ∧
    (takeCursorBack e s).ntc = s.ntc ∧
    (takeCursorBack e s).img = s.img := by
  unfold takeCursorBack
  repeat' split
  all_goals (try simp)

@[simp] theorem headBack_frame (s : State) :
    (headBack  s).pending = s.pending ∧
    (headBack  s).resetAsserted = s.resetAsserted ∧
    (headBack  s).cbStraps = s.cbStraps ∧
    (headBack  s).wallUs = s.wallUs ∧
    (headBack  s).freeIdx = s.freeIdx ∧
    (headBack  s).path = s.path ∧
    (headBack  s).regions = s.regions ∧
    (headBack  s).dir = s.dir ∧
    (headBack  s).ovr = s.ovr ∧
    (headBack  s).front = s.front ∧
    (headBack  s).merge = s.merge ∧
    (headBack  s).stager = s.stager ∧
    (headBack  s).commit = s.commit ∧
    (headBack  s).lane = s.lane ∧
    (headBack  s).cmd = s.cmd ∧
    (headBack  s).ntc = s.ntc ∧
    (headBack  s).img = s.img := by
  simp [headBack]

@[simp] theorem stepOn_frame (s : State) :
    (stepOn  s).pending = s.pending ∧
    (stepOn  s).resetAsserted = s.resetAsserted ∧
    (stepOn  s).cbStraps = s.cbStraps ∧
    (stepOn  s).wallUs = s.wallUs ∧
    (stepOn  s).freeIdx = s.freeIdx ∧
    (stepOn  s).regions = s.regions ∧
    (stepOn  s).dir = s.dir ∧
    (stepOn  s).ovr = s.ovr ∧
    (stepOn  s).front = s.front ∧
    (stepOn  s).merge = s.merge ∧
    (stepOn  s).stager = s.stager ∧
    (stepOn  s).commit = s.commit ∧
    (stepOn  s).lane = s.lane ∧
    (stepOn  s).cmd = s.cmd ∧
    (stepOn  s).ntc = s.ntc ∧
    (stepOn  s).img = s.img := by
  unfold stepOn
  repeat' split
  all_goals (try simp)

@[simp] theorem undoOne_frame (e : Option JEntry) (w : PointWord) (s : State) :
    (undoOne e w s).pending = s.pending ∧
    (undoOne e w s).resetAsserted = s.resetAsserted ∧
    (undoOne e w s).cbStraps = s.cbStraps ∧
    (undoOne e w s).wallUs = s.wallUs ∧
    (undoOne e w s).regions = s.regions ∧
    (undoOne e w s).ovr = s.ovr ∧
    (undoOne e w s).stager = s.stager ∧
    (undoOne e w s).commit = s.commit ∧
    (undoOne e w s).cmd = s.cmd ∧
    (undoOne e w s).img = s.img := by
  simp only [undoOne]
  cases e <;> simp

@[simp] theorem readBefore_frame (e : JEntry) (p : PointNo) (s : State) :
    (readBefore e p s).pending = s.pending ∧
    (readBefore e p s).resetAsserted = s.resetAsserted ∧
    (readBefore e p s).cbStraps = s.cbStraps ∧
    (readBefore e p s).wallUs = s.wallUs ∧
    (readBefore e p s).freeIdx = s.freeIdx ∧
    (readBefore e p s).regions = s.regions ∧
    (readBefore e p s).dir = s.dir ∧
    (readBefore e p s).ovr = s.ovr ∧
    (readBefore e p s).front = s.front ∧
    (readBefore e p s).merge = s.merge ∧
    (readBefore e p s).stager = s.stager ∧
    (readBefore e p s).commit = s.commit ∧
    (readBefore e p s).lane = s.lane ∧
    (readBefore e p s).cmd = s.cmd ∧
    (readBefore e p s).ntc = s.ntc ∧
    (readBefore e p s).img = s.img := by
  simp [readBefore]

@[simp] theorem entryRead_frame (w : Walk) (e : Option JEntry) (s : State) :
    (entryRead w e s).pending = s.pending ∧
    (entryRead w e s).resetAsserted = s.resetAsserted ∧
    (entryRead w e s).cbStraps = s.cbStraps ∧
    (entryRead w e s).wallUs = s.wallUs ∧
    (entryRead w e s).regions = s.regions ∧
    (entryRead w e s).ovr = s.ovr ∧
    (entryRead w e s).stager = s.stager ∧
    (entryRead w e s).commit = s.commit ∧
    (entryRead w e s).cmd = s.cmd ∧
    (entryRead w e s).img = s.img := by
  unfold entryRead
  repeat' split
  all_goals simp

@[simp] theorem undoRead_frame (w : Walk) (r : Ret) (s : State) :
    (undoRead w r s).pending = s.pending ∧
    (undoRead w r s).resetAsserted = s.resetAsserted ∧
    (undoRead w r s).cbStraps = s.cbStraps ∧
    (undoRead w r s).wallUs = s.wallUs ∧
    (undoRead w r s).regions = s.regions ∧
    (undoRead w r s).ovr = s.ovr ∧
    (undoRead w r s).stager = s.stager ∧
    (undoRead w r s).commit = s.commit ∧
    (undoRead w r s).cmd = s.cmd ∧
    (undoRead w r s).img = s.img := by
  simp only [undoRead]
  split <;> simp

@[simp] theorem clearStep_frame (s : State) :
    (clearStep  s).pending = s.pending ∧
    (clearStep  s).resetAsserted = s.resetAsserted ∧
    (clearStep  s).cbStraps = s.cbStraps ∧
    (clearStep  s).wallUs = s.wallUs ∧
    (clearStep  s).freeIdx = s.freeIdx ∧
    (clearStep  s).regions = s.regions ∧
    (clearStep  s).dir = s.dir ∧
    (clearStep  s).ovr = s.ovr ∧
    (clearStep  s).front = s.front ∧
    (clearStep  s).merge = s.merge ∧
    (clearStep  s).stager = s.stager ∧
    (clearStep  s).lane = s.lane ∧
    (clearStep  s).jrn = s.jrn ∧
    (clearStep  s).cmd = s.cmd ∧
    (clearStep  s).ntc = s.ntc ∧
    (clearStep  s).img = s.img := by
  simp [clearStep]

@[simp] theorem stepBoundary_frame (s : State) :
    (stepBoundary  s).pending = s.pending ∧
    (stepBoundary  s).resetAsserted = s.resetAsserted ∧
    (stepBoundary  s).cbStraps = s.cbStraps ∧
    (stepBoundary  s).wallUs = s.wallUs ∧
    (stepBoundary  s).regions = s.regions ∧
    (stepBoundary  s).dir = s.dir ∧
    (stepBoundary  s).ovr = s.ovr ∧
    (stepBoundary  s).cmd = s.cmd ∧
    (stepBoundary  s).img = s.img := by
  simp only [stepBoundary]
  split <;> simp

@[simp] theorem stepRestored_frame (w : Walk) (s : State) :
    (stepRestored w s).pending = s.pending ∧
    (stepRestored w s).resetAsserted = s.resetAsserted ∧
    (stepRestored w s).cbStraps = s.cbStraps ∧
    (stepRestored w s).wallUs = s.wallUs ∧
    (stepRestored w s).regions = s.regions ∧
    (stepRestored w s).dir = s.dir ∧
    (stepRestored w s).ovr = s.ovr ∧
    (stepRestored w s).stager = s.stager ∧
    (stepRestored w s).cmd = s.cmd ∧
    (stepRestored w s).img = s.img := by
  simp [stepRestored]

@[simp] theorem startValidation_frame (s : State) :
    (startValidation  s).pending = s.pending ∧
    (startValidation  s).resetAsserted = s.resetAsserted ∧
    (startValidation  s).cbStraps = s.cbStraps ∧
    (startValidation  s).wallUs = s.wallUs ∧
    (startValidation  s).freeIdx = s.freeIdx ∧
    (startValidation  s).regions = s.regions ∧
    (startValidation  s).dir = s.dir ∧
    (startValidation  s).ovr = s.ovr ∧
    (startValidation  s).front = s.front ∧
    (startValidation  s).merge = s.merge ∧
    (startValidation  s).stager = s.stager ∧
    (startValidation  s).commit = s.commit ∧
    (startValidation  s).lane = s.lane ∧
    (startValidation  s).jrn = s.jrn ∧
    (startValidation  s).ntc = s.ntc ∧
    (startValidation  s).img = s.img := by
  simp [startValidation]

@[simp] theorem actConfigure_frame (s : State) :
    (actConfigure  s).pending = s.pending ∧
    (actConfigure  s).resetAsserted = s.resetAsserted ∧
    (actConfigure  s).cbStraps = s.cbStraps ∧
    (actConfigure  s).wallUs = s.wallUs ∧
    (actConfigure  s).freeIdx = s.freeIdx ∧
    (actConfigure  s).regions = s.regions ∧
    (actConfigure  s).dir = s.dir ∧
    (actConfigure  s).ovr = s.ovr ∧
    (actConfigure  s).front = s.front ∧
    (actConfigure  s).merge = s.merge ∧
    (actConfigure  s).stager = s.stager ∧
    (actConfigure  s).commit = s.commit ∧
    (actConfigure  s).lane = s.lane ∧
    (actConfigure  s).jrn = s.jrn ∧
    (actConfigure  s).ntc = s.ntc ∧
    (actConfigure  s).img = s.img := by
  unfold actConfigure
  repeat' split
  all_goals (try simp)

@[simp] theorem judgeConfigure_frame (a : List (Nat × Option (List Byte))) (b : List (ChanNo × Option (List Byte))) (s : State) :
    (judgeConfigure a b s).pending = s.pending ∧
    (judgeConfigure a b s).resetAsserted = s.resetAsserted ∧
    (judgeConfigure a b s).cbStraps = s.cbStraps ∧
    (judgeConfigure a b s).wallUs = s.wallUs ∧
    (judgeConfigure a b s).freeIdx = s.freeIdx ∧
    (judgeConfigure a b s).regions = s.regions ∧
    (judgeConfigure a b s).dir = s.dir ∧
    (judgeConfigure a b s).ovr = s.ovr ∧
    (judgeConfigure a b s).front = s.front ∧
    (judgeConfigure a b s).merge = s.merge ∧
    (judgeConfigure a b s).stager = s.stager ∧
    (judgeConfigure a b s).commit = s.commit ∧
    (judgeConfigure a b s).lane = s.lane ∧
    (judgeConfigure a b s).jrn = s.jrn ∧
    (judgeConfigure a b s).img = s.img := by
  unfold judgeConfigure
  repeat' split
  all_goals (try simp)

@[simp] theorem imgAccess_frame (s : State) :
    (imgAccess  s).pending = s.pending ∧
    (imgAccess  s).resetAsserted = s.resetAsserted ∧
    (imgAccess  s).cbStraps = s.cbStraps ∧
    (imgAccess  s).wallUs = s.wallUs ∧
    (imgAccess  s).freeIdx = s.freeIdx ∧
    (imgAccess  s).regions = s.regions ∧
    (imgAccess  s).dir = s.dir ∧
    (imgAccess  s).ovr = s.ovr ∧
    (imgAccess  s).front = s.front ∧
    (imgAccess  s).merge = s.merge ∧
    (imgAccess  s).stager = s.stager ∧
    (imgAccess  s).commit = s.commit ∧
    (imgAccess  s).lane = s.lane ∧
    (imgAccess  s).jrn = s.jrn ∧
    (imgAccess  s).cmd = s.cmd ∧
    (imgAccess  s).ntc = s.ntc ∧
    (imgAccess  s).img = s.img := by
  simp only [imgAccess]
  repeat' split
  all_goals simp

@[simp] theorem endPass_frame (s : State) :
    (endPass  s).pending = s.pending ∧
    (endPass  s).resetAsserted = s.resetAsserted ∧
    (endPass  s).cbStraps = s.cbStraps ∧
    (endPass  s).wallUs = s.wallUs ∧
    (endPass  s).regions = s.regions ∧
    (endPass  s).dir = s.dir ∧
    (endPass  s).ovr = s.ovr ∧
    (endPass  s).stager = s.stager ∧
    (endPass  s).commit = s.commit ∧
    (endPass  s).jrn = s.jrn ∧
    (endPass  s).cmd = s.cmd := by
  simp [endPass]

@[simp] theorem nextWord_frame (s : State) :
    (nextWord  s).pending = s.pending ∧
    (nextWord  s).resetAsserted = s.resetAsserted ∧
    (nextWord  s).cbStraps = s.cbStraps ∧
    (nextWord  s).wallUs = s.wallUs ∧
    (nextWord  s).regions = s.regions ∧
    (nextWord  s).dir = s.dir ∧
    (nextWord  s).ovr = s.ovr ∧
    (nextWord  s).stager = s.stager ∧
    (nextWord  s).commit = s.commit ∧
    (nextWord  s).jrn = s.jrn ∧
    (nextWord  s).cmd = s.cmd := by
  unfold nextWord
  repeat' split
  all_goals (try simp)

@[simp] theorem keepWord_frame (w : PointWord) (s : State) :
    (keepWord w s).pending = s.pending ∧
    (keepWord w s).resetAsserted = s.resetAsserted ∧
    (keepWord w s).cbStraps = s.cbStraps ∧
    (keepWord w s).wallUs = s.wallUs ∧
    (keepWord w s).regions = s.regions ∧
    (keepWord w s).ovr = s.ovr ∧
    (keepWord w s).stager = s.stager ∧
    (keepWord w s).commit = s.commit ∧
    (keepWord w s).jrn = s.jrn ∧
    (keepWord w s).cmd = s.cmd := by
  simp only [keepWord]
  repeat' split
  all_goals simp

@[simp] theorem passWord_frame (r : Ret) (s : State) :
    (passWord r s).pending = s.pending ∧
    (passWord r s).resetAsserted = s.resetAsserted ∧
    (passWord r s).cbStraps = s.cbStraps ∧
    (passWord r s).wallUs = s.wallUs ∧
    (passWord r s).regions = s.regions ∧
    (passWord r s).ovr = s.ovr ∧
    (passWord r s).stager = s.stager ∧
    (passWord r s).commit = s.commit ∧
    (passWord r s).jrn = s.jrn ∧
    (passWord r s).cmd = s.cmd := by
  simp only [passWord]
  split <;> simp

@[simp] theorem finishUnconfigure_frame (s : State) :
    (finishUnconfigure  s).pending = s.pending ∧
    (finishUnconfigure  s).resetAsserted = s.resetAsserted ∧
    (finishUnconfigure  s).cbStraps = s.cbStraps ∧
    (finishUnconfigure  s).wallUs = s.wallUs ∧
    (finishUnconfigure  s).freeIdx = s.freeIdx ∧
    (finishUnconfigure  s).regions = s.regions ∧
    (finishUnconfigure  s).dir = s.dir ∧
    (finishUnconfigure  s).ovr = s.ovr ∧
    (finishUnconfigure  s).front = s.front ∧
    (finishUnconfigure  s).merge = s.merge ∧
    (finishUnconfigure  s).stager = s.stager ∧
    (finishUnconfigure  s).commit = s.commit ∧
    (finishUnconfigure  s).lane = s.lane ∧
    (finishUnconfigure  s).img = s.img := by
  simp [finishUnconfigure]

@[simp] theorem abandonPass_frame (s : State) :
    (abandonPass  s).pending = s.pending ∧
    (abandonPass  s).resetAsserted = s.resetAsserted ∧
    (abandonPass  s).cbStraps = s.cbStraps ∧
    (abandonPass  s).wallUs = s.wallUs ∧
    (abandonPass  s).freeIdx = s.freeIdx ∧
    (abandonPass  s).regions = s.regions ∧
    (abandonPass  s).dir = s.dir ∧
    (abandonPass  s).ovr = s.ovr ∧
    (abandonPass  s).front = s.front ∧
    (abandonPass  s).merge = s.merge ∧
    (abandonPass  s).stager = s.stager ∧
    (abandonPass  s).commit = s.commit ∧
    (abandonPass  s).lane = s.lane ∧
    (abandonPass  s).jrn = s.jrn ∧
    (abandonPass  s).cmd = s.cmd ∧
    (abandonPass  s).ntc = s.ntc := by
  simp [abandonPass]

@[simp] theorem actUnconfigure_frame (s : State) :
    (actUnconfigure  s).pending = s.pending ∧
    (actUnconfigure  s).resetAsserted = s.resetAsserted ∧
    (actUnconfigure  s).cbStraps = s.cbStraps ∧
    (actUnconfigure  s).wallUs = s.wallUs ∧
    (actUnconfigure  s).freeIdx = s.freeIdx ∧
    (actUnconfigure  s).regions = s.regions ∧
    (actUnconfigure  s).dir = s.dir ∧
    (actUnconfigure  s).ovr = s.ovr ∧
    (actUnconfigure  s).front = s.front ∧
    (actUnconfigure  s).merge = s.merge ∧
    (actUnconfigure  s).stager = s.stager ∧
    (actUnconfigure  s).commit = s.commit ∧
    (actUnconfigure  s).lane = s.lane := by
  unfold actUnconfigure
  repeat' split
  all_goals (try simp)

@[simp] theorem startLane_frame (s : State) :
    (startLane  s).pending = s.pending ∧
    (startLane  s).resetAsserted = s.resetAsserted ∧
    (startLane  s).cbStraps = s.cbStraps ∧
    (startLane  s).wallUs = s.wallUs ∧
    (startLane  s).freeIdx = s.freeIdx ∧
    (startLane  s).regions = s.regions ∧
    (startLane  s).dir = s.dir ∧
    (startLane  s).ovr = s.ovr ∧
    (startLane  s).front = s.front ∧
    (startLane  s).merge = s.merge ∧
    (startLane  s).stager = s.stager ∧
    (startLane  s).commit = s.commit ∧
    (startLane  s).jrn = s.jrn ∧
    (startLane  s).cmd = s.cmd ∧
    (startLane  s).img = s.img := by
  unfold startLane
  repeat' split
  all_goals (try simp)

@[simp] theorem reportEnd_frame (s : State) :
    (reportEnd  s).pending = s.pending ∧
    (reportEnd  s).resetAsserted = s.resetAsserted ∧
    (reportEnd  s).cbStraps = s.cbStraps ∧
    (reportEnd  s).wallUs = s.wallUs ∧
    (reportEnd  s).freeIdx = s.freeIdx ∧
    (reportEnd  s).regions = s.regions ∧
    (reportEnd  s).dir = s.dir ∧
    (reportEnd  s).ovr = s.ovr ∧
    (reportEnd  s).front = s.front ∧
    (reportEnd  s).merge = s.merge ∧
    (reportEnd  s).stager = s.stager ∧
    (reportEnd  s).commit = s.commit ∧
    (reportEnd  s).jrn = s.jrn ∧
    (reportEnd  s).cmd = s.cmd ∧
    (reportEnd  s).img = s.img := by
  unfold reportEnd
  repeat' split
  all_goals (try simp)

@[simp] theorem laneAnswer_frame (s : State) :
    (laneAnswer  s).pending = s.pending ∧
    (laneAnswer  s).resetAsserted = s.resetAsserted ∧
    (laneAnswer  s).cbStraps = s.cbStraps ∧
    (laneAnswer  s).wallUs = s.wallUs ∧
    (laneAnswer  s).freeIdx = s.freeIdx ∧
    (laneAnswer  s).regions = s.regions ∧
    (laneAnswer  s).dir = s.dir ∧
    (laneAnswer  s).ovr = s.ovr ∧
    (laneAnswer  s).front = s.front ∧
    (laneAnswer  s).merge = s.merge ∧
    (laneAnswer  s).stager = s.stager ∧
    (laneAnswer  s).commit = s.commit ∧
    (laneAnswer  s).lane = s.lane ∧
    (laneAnswer  s).jrn = s.jrn ∧
    (laneAnswer  s).img = s.img := by
  simp [laneAnswer]

@[simp] theorem startRun_frame (m : RunMode) (s : State) :
    (startRun m s).pending = s.pending ∧
    (startRun m s).resetAsserted = s.resetAsserted ∧
    (startRun m s).cbStraps = s.cbStraps ∧
    (startRun m s).wallUs = s.wallUs ∧
    (startRun m s).freeIdx = s.freeIdx ∧
    (startRun m s).regions = s.regions ∧
    (startRun m s).dir = s.dir ∧
    (startRun m s).ovr = s.ovr ∧
    (startRun m s).front = s.front ∧
    (startRun m s).merge = s.merge ∧
    (startRun m s).stager = s.stager ∧
    (startRun m s).commit = s.commit ∧
    (startRun m s).jrn = s.jrn ∧
    (startRun m s).cmd = s.cmd ∧
    (startRun m s).img = s.img := by
  unfold startRun
  repeat' split
  all_goals (try simp)

@[simp] theorem startStep_frame (n : Nat) (s : State) :
    (startStep n s).pending = s.pending ∧
    (startStep n s).resetAsserted = s.resetAsserted ∧
    (startStep n s).cbStraps = s.cbStraps ∧
    (startStep n s).wallUs = s.wallUs ∧
    (startStep n s).freeIdx = s.freeIdx ∧
    (startStep n s).regions = s.regions ∧
    (startStep n s).dir = s.dir ∧
    (startStep n s).ovr = s.ovr ∧
    (startStep n s).front = s.front ∧
    (startStep n s).merge = s.merge ∧
    (startStep n s).stager = s.stager ∧
    (startStep n s).commit = s.commit ∧
    (startStep n s).jrn = s.jrn ∧
    (startStep n s).cmd = s.cmd ∧
    (startStep n s).img = s.img := by
  unfold startStep
  repeat' split
  all_goals (try simp)

@[simp] theorem actRun_frame (d : List Byte) (s : State) :
    (actRun d s).pending = s.pending ∧
    (actRun d s).resetAsserted = s.resetAsserted ∧
    (actRun d s).cbStraps = s.cbStraps ∧
    (actRun d s).wallUs = s.wallUs ∧
    (actRun d s).regions = s.regions ∧
    (actRun d s).dir = s.dir ∧
    (actRun d s).ovr = s.ovr ∧
    (actRun d s).stager = s.stager ∧
    (actRun d s).commit = s.commit ∧
    (actRun d s).jrn = s.jrn ∧
    (actRun d s).img = s.img := by
  unfold actRun
  repeat' split
  all_goals (try simp)

@[simp] theorem actStep_frame (d : List Byte) (s : State) :
    (actStep d s).pending = s.pending ∧
    (actStep d s).resetAsserted = s.resetAsserted ∧
    (actStep d s).cbStraps = s.cbStraps ∧
    (actStep d s).wallUs = s.wallUs ∧
    (actStep d s).regions = s.regions ∧
    (actStep d s).dir = s.dir ∧
    (actStep d s).ovr = s.ovr ∧
    (actStep d s).stager = s.stager ∧
    (actStep d s).commit = s.commit ∧
    (actStep d s).jrn = s.jrn ∧
    (actStep d s).img = s.img := by
  simp only [actStep]
  repeat' split
  all_goals simp

@[simp] theorem stopAnswer_frame (n : Nat) (s : State) :
    (stopAnswer n s).pending = s.pending ∧
    (stopAnswer n s).resetAsserted = s.resetAsserted ∧
    (stopAnswer n s).cbStraps = s.cbStraps ∧
    (stopAnswer n s).wallUs = s.wallUs ∧
    (stopAnswer n s).freeIdx = s.freeIdx ∧
    (stopAnswer n s).regions = s.regions ∧
    (stopAnswer n s).dir = s.dir ∧
    (stopAnswer n s).ovr = s.ovr ∧
    (stopAnswer n s).front = s.front ∧
    (stopAnswer n s).merge = s.merge ∧
    (stopAnswer n s).stager = s.stager ∧
    (stopAnswer n s).commit = s.commit ∧
    (stopAnswer n s).lane = s.lane ∧
    (stopAnswer n s).jrn = s.jrn ∧
    (stopAnswer n s).img = s.img := by
  simp [stopAnswer]

@[simp] theorem actStop_frame (s : State) :
    (actStop  s).pending = s.pending ∧
    (actStop  s).resetAsserted = s.resetAsserted ∧
    (actStop  s).cbStraps = s.cbStraps ∧
    (actStop  s).wallUs = s.wallUs ∧
    (actStop  s).regions = s.regions ∧
    (actStop  s).dir = s.dir ∧
    (actStop  s).ovr = s.ovr ∧
    (actStop  s).stager = s.stager ∧
    (actStop  s).commit = s.commit ∧
    (actStop  s).img = s.img := by
  unfold actStop
  repeat' split
  all_goals (try simp)

@[simp] theorem transferAll_frame (s : State) :
    (transferAll  s).pending = s.pending ∧
    (transferAll  s).resetAsserted = s.resetAsserted ∧
    (transferAll  s).cbStraps = s.cbStraps ∧
    (transferAll  s).wallUs = s.wallUs ∧
    (transferAll  s).freeIdx = s.freeIdx ∧
    (transferAll  s).regions = s.regions ∧
    (transferAll  s).dir = s.dir ∧
    (transferAll  s).ovr = s.ovr ∧
    (transferAll  s).merge = s.merge ∧
    (transferAll  s).commit = s.commit ∧
    (transferAll  s).cmd = s.cmd ∧
    (transferAll  s).img = s.img := by
  simp [transferAll]

@[simp] theorem settingTaken_frame (s : State) :
    (settingTaken  s).pending = s.pending ∧
    (settingTaken  s).resetAsserted = s.resetAsserted ∧
    (settingTaken  s).cbStraps = s.cbStraps ∧
    (settingTaken  s).wallUs = s.wallUs ∧
    (settingTaken  s).regions = s.regions ∧
    (settingTaken  s).dir = s.dir ∧
    (settingTaken  s).ovr = s.ovr ∧
    (settingTaken  s).commit = s.commit ∧
    (settingTaken  s).img = s.img := by
  unfold settingTaken
  repeat' split
  all_goals (try simp)

@[simp] theorem actSetPace_frame (d : List Byte) (s : State) :
    (actSetPace d s).pending = s.pending ∧
    (actSetPace d s).resetAsserted = s.resetAsserted ∧
    (actSetPace d s).cbStraps = s.cbStraps ∧
    (actSetPace d s).wallUs = s.wallUs ∧
    (actSetPace d s).regions = s.regions ∧
    (actSetPace d s).dir = s.dir ∧
    (actSetPace d s).ovr = s.ovr ∧
    (actSetPace d s).commit = s.commit ∧
    (actSetPace d s).img = s.img := by
  simp only [actSetPace]
  repeat' split
  all_goals simp

@[simp] theorem actSetStopTime_frame (d : List Byte) (s : State) :
    (actSetStopTime d s).pending = s.pending ∧
    (actSetStopTime d s).resetAsserted = s.resetAsserted ∧
    (actSetStopTime d s).cbStraps = s.cbStraps ∧
    (actSetStopTime d s).wallUs = s.wallUs ∧
    (actSetStopTime d s).regions = s.regions ∧
    (actSetStopTime d s).dir = s.dir ∧
    (actSetStopTime d s).ovr = s.ovr ∧
    (actSetStopTime d s).commit = s.commit ∧
    (actSetStopTime d s).img = s.img := by
  simp only [actSetStopTime]
  repeat' split
  all_goals simp

@[simp] theorem actSetSkew_frame (d : List Byte) (s : State) :
    (actSetSkew d s).pending = s.pending ∧
    (actSetSkew d s).resetAsserted = s.resetAsserted ∧
    (actSetSkew d s).cbStraps = s.cbStraps ∧
    (actSetSkew d s).wallUs = s.wallUs ∧
    (actSetSkew d s).regions = s.regions ∧
    (actSetSkew d s).dir = s.dir ∧
    (actSetSkew d s).ovr = s.ovr ∧
    (actSetSkew d s).commit = s.commit ∧
    (actSetSkew d s).img = s.img := by
  simp only [actSetSkew]
  repeat' split
  all_goals simp

@[simp] theorem actSetStopCount_frame (d : List Byte) (s : State) :
    (actSetStopCount d s).pending = s.pending ∧
    (actSetStopCount d s).resetAsserted = s.resetAsserted ∧
    (actSetStopCount d s).cbStraps = s.cbStraps ∧
    (actSetStopCount d s).wallUs = s.wallUs ∧
    (actSetStopCount d s).regions = s.regions ∧
    (actSetStopCount d s).dir = s.dir ∧
    (actSetStopCount d s).ovr = s.ovr ∧
    (actSetStopCount d s).commit = s.commit ∧
    (actSetStopCount d s).img = s.img := by
  simp [actSetStopCount]

@[simp] theorem placeSet_frame (i : Nat) (lp : LatePolicy) (a : Bool) (s : State) :
    (placeSet i lp a s).pending = s.pending ∧
    (placeSet i lp a s).resetAsserted = s.resetAsserted ∧
    (placeSet i lp a s).cbStraps = s.cbStraps ∧
    (placeSet i lp a s).wallUs = s.wallUs ∧
    (placeSet i lp a s).regions = s.regions ∧
    (placeSet i lp a s).dir = s.dir ∧
    (placeSet i lp a s).ovr = s.ovr ∧
    (placeSet i lp a s).stager = s.stager ∧
    (placeSet i lp a s).commit = s.commit ∧
    (placeSet i lp a s).jrn = s.jrn ∧
    (placeSet i lp a s).img = s.img := by
  simp only [placeSet]
  split <;> simp

@[simp] theorem actSetChannel_frame (d : List Byte) (s : State) :
    (actSetChannel d s).pending = s.pending ∧
    (actSetChannel d s).resetAsserted = s.resetAsserted ∧
    (actSetChannel d s).cbStraps = s.cbStraps ∧
    (actSetChannel d s).wallUs = s.wallUs ∧
    (actSetChannel d s).regions = s.regions ∧
    (actSetChannel d s).dir = s.dir ∧
    (actSetChannel d s).ovr = s.ovr ∧
    (actSetChannel d s).stager = s.stager ∧
    (actSetChannel d s).commit = s.commit ∧
    (actSetChannel d s).jrn = s.jrn ∧
    (actSetChannel d s).img = s.img := by
  simp only [actSetChannel]
  repeat' split
  all_goals simp

@[simp] theorem dropBottom_frame (s : State) :
    (dropBottom  s).pending = s.pending ∧
    (dropBottom  s).resetAsserted = s.resetAsserted ∧
    (dropBottom  s).cbStraps = s.cbStraps ∧
    (dropBottom  s).wallUs = s.wallUs ∧
    (dropBottom  s).freeIdx = s.freeIdx ∧
    (dropBottom  s).regions = s.regions ∧
    (dropBottom  s).dir = s.dir ∧
    (dropBottom  s).ovr = s.ovr ∧
    (dropBottom  s).front = s.front ∧
    (dropBottom  s).merge = s.merge ∧
    (dropBottom  s).stager = s.stager ∧
    (dropBottom  s).commit = s.commit ∧
    (dropBottom  s).lane = s.lane ∧
    (dropBottom  s).cmd = s.cmd ∧
    (dropBottom  s).img = s.img := by
  unfold dropBottom
  repeat' split
  all_goals (try simp)

@[simp] theorem pushMark_frame (s : State) :
    (pushMark  s).pending = s.pending ∧
    (pushMark  s).resetAsserted = s.resetAsserted ∧
    (pushMark  s).cbStraps = s.cbStraps ∧
    (pushMark  s).wallUs = s.wallUs ∧
    (pushMark  s).freeIdx = s.freeIdx ∧
    (pushMark  s).regions = s.regions ∧
    (pushMark  s).dir = s.dir ∧
    (pushMark  s).ovr = s.ovr ∧
    (pushMark  s).front = s.front ∧
    (pushMark  s).merge = s.merge ∧
    (pushMark  s).stager = s.stager ∧
    (pushMark  s).commit = s.commit ∧
    (pushMark  s).lane = s.lane ∧
    (pushMark  s).img = s.img := by
  simp [pushMark]

@[simp] theorem actMark_frame (s : State) :
    (actMark  s).pending = s.pending ∧
    (actMark  s).resetAsserted = s.resetAsserted ∧
    (actMark  s).cbStraps = s.cbStraps ∧
    (actMark  s).wallUs = s.wallUs ∧
    (actMark  s).freeIdx = s.freeIdx ∧
    (actMark  s).regions = s.regions ∧
    (actMark  s).dir = s.dir ∧
    (actMark  s).ovr = s.ovr ∧
    (actMark  s).front = s.front ∧
    (actMark  s).merge = s.merge ∧
    (actMark  s).stager = s.stager ∧
    (actMark  s).commit = s.commit ∧
    (actMark  s).lane = s.lane ∧
    (actMark  s).img = s.img := by
  unfold actMark
  repeat' split
  all_goals (try simp)

@[simp] theorem actDropMark_frame (s : State) :
    (actDropMark  s).pending = s.pending ∧
    (actDropMark  s).resetAsserted = s.resetAsserted ∧
    (actDropMark  s).cbStraps = s.cbStraps ∧
    (actDropMark  s).wallUs = s.wallUs ∧
    (actDropMark  s).freeIdx = s.freeIdx ∧
    (actDropMark  s).regions = s.regions ∧
    (actDropMark  s).dir = s.dir ∧
    (actDropMark  s).ovr = s.ovr ∧
    (actDropMark  s).front = s.front ∧
    (actDropMark  s).merge = s.merge ∧
    (actDropMark  s).stager = s.stager ∧
    (actDropMark  s).commit = s.commit ∧
    (actDropMark  s).lane = s.lane ∧
    (actDropMark  s).img = s.img := by
  simp only [actDropMark]
  split <;> simp

@[simp] theorem willRewind_frame (w : Walk) (s : State) :
    (willRewind w s).pending = s.pending ∧
    (willRewind w s).resetAsserted = s.resetAsserted ∧
    (willRewind w s).cbStraps = s.cbStraps ∧
    (willRewind w s).wallUs = s.wallUs ∧
    (willRewind w s).freeIdx = s.freeIdx ∧
    (willRewind w s).path = s.path ∧
    (willRewind w s).regions = s.regions ∧
    (willRewind w s).dir = s.dir ∧
    (willRewind w s).ovr = s.ovr ∧
    (willRewind w s).front = s.front ∧
    (willRewind w s).merge = s.merge ∧
    (willRewind w s).stager = s.stager ∧
    (willRewind w s).commit = s.commit ∧
    (willRewind w s).lane = s.lane ∧
    (willRewind w s).jrn = s.jrn ∧
    (willRewind w s).ntc = s.ntc ∧
    (willRewind w s).img = s.img := by
  simp [willRewind]

@[simp] theorem actRewind_frame (d : List Byte) (s : State) :
    (actRewind d s).pending = s.pending ∧
    (actRewind d s).resetAsserted = s.resetAsserted ∧
    (actRewind d s).cbStraps = s.cbStraps ∧
    (actRewind d s).wallUs = s.wallUs ∧
    (actRewind d s).freeIdx = s.freeIdx ∧
    (actRewind d s).regions = s.regions ∧
    (actRewind d s).dir = s.dir ∧
    (actRewind d s).ovr = s.ovr ∧
    (actRewind d s).front = s.front ∧
    (actRewind d s).merge = s.merge ∧
    (actRewind d s).stager = s.stager ∧
    (actRewind d s).commit = s.commit ∧
    (actRewind d s).lane = s.lane ∧
    (actRewind d s).jrn = s.jrn ∧
    (actRewind d s).img = s.img := by
  simp only [actRewind]
  repeat' split
  all_goals simp

@[simp] theorem actStepBack_frame (d : List Byte) (s : State) :
    (actStepBack d s).pending = s.pending ∧
    (actStepBack d s).resetAsserted = s.resetAsserted ∧
    (actStepBack d s).cbStraps = s.cbStraps ∧
    (actStepBack d s).wallUs = s.wallUs ∧
    (actStepBack d s).freeIdx = s.freeIdx ∧
    (actStepBack d s).regions = s.regions ∧
    (actStepBack d s).dir = s.dir ∧
    (actStepBack d s).ovr = s.ovr ∧
    (actStepBack d s).front = s.front ∧
    (actStepBack d s).merge = s.merge ∧
    (actStepBack d s).stager = s.stager ∧
    (actStepBack d s).commit = s.commit ∧
    (actStepBack d s).lane = s.lane ∧
    (actStepBack d s).jrn = s.jrn ∧
    (actStepBack d s).img = s.img := by
  simp only [actStepBack]
  repeat' split
  all_goals simp

@[simp] theorem changeWatch_frame (slot : BitVec 5) (w : Option Watch) (s : State) :
    (changeWatch slot w s).pending = s.pending ∧
    (changeWatch slot w s).resetAsserted = s.resetAsserted ∧
    (changeWatch slot w s).cbStraps = s.cbStraps ∧
    (changeWatch slot w s).wallUs = s.wallUs ∧
    (changeWatch slot w s).freeIdx = s.freeIdx ∧
    (changeWatch slot w s).regions = s.regions ∧
    (changeWatch slot w s).dir = s.dir ∧
    (changeWatch slot w s).ovr = s.ovr ∧
    (changeWatch slot w s).front = s.front ∧
    (changeWatch slot w s).merge = s.merge ∧
    (changeWatch slot w s).stager = s.stager ∧
    (changeWatch slot w s).lane = s.lane ∧
    (changeWatch slot w s).jrn = s.jrn ∧
    (changeWatch slot w s).img = s.img := by
  simp [changeWatch]

@[simp] theorem actWatchSet_frame (d : List Byte) (s : State) :
    (actWatchSet d s).pending = s.pending ∧
    (actWatchSet d s).resetAsserted = s.resetAsserted ∧
    (actWatchSet d s).cbStraps = s.cbStraps ∧
    (actWatchSet d s).wallUs = s.wallUs ∧
    (actWatchSet d s).freeIdx = s.freeIdx ∧
    (actWatchSet d s).regions = s.regions ∧
    (actWatchSet d s).dir = s.dir ∧
    (actWatchSet d s).ovr = s.ovr ∧
    (actWatchSet d s).front = s.front ∧
    (actWatchSet d s).merge = s.merge ∧
    (actWatchSet d s).stager = s.stager ∧
    (actWatchSet d s).lane = s.lane ∧
    (actWatchSet d s).jrn = s.jrn ∧
    (actWatchSet d s).img = s.img := by
  unfold actWatchSet
  repeat' split
  all_goals (try simp)

@[simp] theorem actWatchClear_frame (d : List Byte) (s : State) :
    (actWatchClear d s).pending = s.pending ∧
    (actWatchClear d s).resetAsserted = s.resetAsserted ∧
    (actWatchClear d s).cbStraps = s.cbStraps ∧
    (actWatchClear d s).wallUs = s.wallUs ∧
    (actWatchClear d s).freeIdx = s.freeIdx ∧
    (actWatchClear d s).regions = s.regions ∧
    (actWatchClear d s).dir = s.dir ∧
    (actWatchClear d s).ovr = s.ovr ∧
    (actWatchClear d s).front = s.front ∧
    (actWatchClear d s).merge = s.merge ∧
    (actWatchClear d s).stager = s.stager ∧
    (actWatchClear d s).lane = s.lane ∧
    (actWatchClear d s).jrn = s.jrn ∧
    (actWatchClear d s).img = s.img := by
  simp only [actWatchClear]
  repeat' split
  all_goals simp

@[simp] theorem startCapture_frame (a b : Nat) (l : List Nat) (s : State) :
    (startCapture a b l s).pending = s.pending ∧
    (startCapture a b l s).resetAsserted = s.resetAsserted ∧
    (startCapture a b l s).cbStraps = s.cbStraps ∧
    (startCapture a b l s).wallUs = s.wallUs ∧
    (startCapture a b l s).freeIdx = s.freeIdx ∧
    (startCapture a b l s).regions = s.regions ∧
    (startCapture a b l s).dir = s.dir ∧
    (startCapture a b l s).ovr = s.ovr ∧
    (startCapture a b l s).front = s.front ∧
    (startCapture a b l s).merge = s.merge ∧
    (startCapture a b l s).stager = s.stager ∧
    (startCapture a b l s).commit = s.commit ∧
    (startCapture a b l s).lane = s.lane ∧
    (startCapture a b l s).jrn = s.jrn ∧
    (startCapture a b l s).ntc = s.ntc ∧
    (startCapture a b l s).img = s.img := by
  simp only [startCapture]
  split
  · simp
  · have k := foldl_keeps (fun u : State => (u.pending, u.resetAsserted, u.cbStraps, u.wallUs, u.freeIdx, u.regions, u.dir, u.ovr, u.front, u.merge, u.stager, u.commit, u.lane, u.jrn, u.ntc, u.img)) (fun u a => genRead .holdRead a 64 u) (fun _ _ => by simp)
    simp only [Prod.mk.injEq] at k
    simp [k]

@[simp] theorem setSelector_frame (a b : Nat) (f : Nat → Selector) (s : State) :
    (setSelector a b f s).pending = s.pending ∧
    (setSelector a b f s).resetAsserted = s.resetAsserted ∧
    (setSelector a b f s).cbStraps = s.cbStraps ∧
    (setSelector a b f s).wallUs = s.wallUs ∧
    (setSelector a b f s).freeIdx = s.freeIdx ∧
    (setSelector a b f s).path = s.path ∧
    (setSelector a b f s).regions = s.regions ∧
    (setSelector a b f s).ovr = s.ovr ∧
    (setSelector a b f s).front = s.front ∧
    (setSelector a b f s).merge = s.merge ∧
    (setSelector a b f s).stager = s.stager ∧
    (setSelector a b f s).commit = s.commit ∧
    (setSelector a b f s).lane = s.lane ∧
    (setSelector a b f s).jrn = s.jrn ∧
    (setSelector a b f s).cmd = s.cmd ∧
    (setSelector a b f s).ntc = s.ntc ∧
    (setSelector a b f s).img = s.img := by
  simp [setSelector]

@[simp] theorem actSetPresentation_frame (d : List Byte) (s : State) :
    (actSetPresentation d s).pending = s.pending ∧
    (actSetPresentation d s).resetAsserted = s.resetAsserted ∧
    (actSetPresentation d s).cbStraps = s.cbStraps ∧
    (actSetPresentation d s).wallUs = s.wallUs ∧
    (actSetPresentation d s).freeIdx = s.freeIdx ∧
    (actSetPresentation d s).regions = s.regions ∧
    (actSetPresentation d s).ovr = s.ovr ∧
    (actSetPresentation d s).front = s.front ∧
    (actSetPresentation d s).merge = s.merge ∧
    (actSetPresentation d s).stager = s.stager ∧
    (actSetPresentation d s).commit = s.commit ∧
    (actSetPresentation d s).lane = s.lane ∧
    (actSetPresentation d s).jrn = s.jrn ∧
    (actSetPresentation d s).img = s.img := by
  simp only [actSetPresentation]
  repeat' split
  all_goals simp

@[simp] theorem finishCapture_frame (g : Regions) (a b : Nat) (s : State) :
    (finishCapture g a b s).pending = s.pending ∧
    (finishCapture g a b s).resetAsserted = s.resetAsserted ∧
    (finishCapture g a b s).cbStraps = s.cbStraps ∧
    (finishCapture g a b s).wallUs = s.wallUs ∧
    (finishCapture g a b s).freeIdx = s.freeIdx ∧
    (finishCapture g a b s).regions = s.regions ∧
    (finishCapture g a b s).ovr = s.ovr ∧
    (finishCapture g a b s).front = s.front ∧
    (finishCapture g a b s).merge = s.merge ∧
    (finishCapture g a b s).stager = s.stager ∧
    (finishCapture g a b s).commit = s.commit ∧
    (finishCapture g a b s).lane = s.lane ∧
    (finishCapture g a b s).jrn = s.jrn ∧
    (finishCapture g a b s).img = s.img := by
  simp [finishCapture]

@[simp] theorem actSetDwell_frame (d : List Byte) (s : State) :
    (actSetDwell d s).pending = s.pending ∧
    (actSetDwell d s).resetAsserted = s.resetAsserted ∧
    (actSetDwell d s).cbStraps = s.cbStraps ∧
    (actSetDwell d s).wallUs = s.wallUs ∧
    (actSetDwell d s).freeIdx = s.freeIdx ∧
    (actSetDwell d s).regions = s.regions ∧
    (actSetDwell d s).ovr = s.ovr ∧
    (actSetDwell d s).front = s.front ∧
    (actSetDwell d s).merge = s.merge ∧
    (actSetDwell d s).stager = s.stager ∧
    (actSetDwell d s).commit = s.commit ∧
    (actSetDwell d s).lane = s.lane ∧
    (actSetDwell d s).jrn = s.jrn ∧
    (actSetDwell d s).img = s.img := by
  simp only [actSetDwell]
  repeat' split
  all_goals simp

@[simp] theorem actSetOverridePolicy_frame (d : List Byte) (s : State) :
    (actSetOverridePolicy d s).pending = s.pending ∧
    (actSetOverridePolicy d s).resetAsserted = s.resetAsserted ∧
    (actSetOverridePolicy d s).cbStraps = s.cbStraps ∧
    (actSetOverridePolicy d s).wallUs = s.wallUs ∧
    (actSetOverridePolicy d s).freeIdx = s.freeIdx ∧
    (actSetOverridePolicy d s).regions = s.regions ∧
    (actSetOverridePolicy d s).ovr = s.ovr ∧
    (actSetOverridePolicy d s).front = s.front ∧
    (actSetOverridePolicy d s).merge = s.merge ∧
    (actSetOverridePolicy d s).stager = s.stager ∧
    (actSetOverridePolicy d s).commit = s.commit ∧
    (actSetOverridePolicy d s).lane = s.lane ∧
    (actSetOverridePolicy d s).jrn = s.jrn ∧
    (actSetOverridePolicy d s).img = s.img := by
  simp only [actSetOverridePolicy]
  repeat' split
  all_goals simp

@[simp] theorem actReleaseOverride_frame (d : List Byte) (s : State) :
    (actReleaseOverride d s).pending = s.pending ∧
    (actReleaseOverride d s).resetAsserted = s.resetAsserted ∧
    (actReleaseOverride d s).cbStraps = s.cbStraps ∧
    (actReleaseOverride d s).wallUs = s.wallUs ∧
    (actReleaseOverride d s).freeIdx = s.freeIdx ∧
    (actReleaseOverride d s).regions = s.regions ∧
    (actReleaseOverride d s).dir = s.dir ∧
    (actReleaseOverride d s).front = s.front ∧
    (actReleaseOverride d s).merge = s.merge ∧
    (actReleaseOverride d s).stager = s.stager ∧
    (actReleaseOverride d s).commit = s.commit ∧
    (actReleaseOverride d s).lane = s.lane ∧
    (actReleaseOverride d s).jrn = s.jrn ∧
    (actReleaseOverride d s).img = s.img := by
  simp only [actReleaseOverride]
  repeat' split
  all_goals simp

@[simp] theorem answerQuery_frame (p : PointNo) (s : State) :
    (answerQuery p s).pending = s.pending ∧
    (answerQuery p s).resetAsserted = s.resetAsserted ∧
    (answerQuery p s).cbStraps = s.cbStraps ∧
    (answerQuery p s).wallUs = s.wallUs ∧
    (answerQuery p s).freeIdx = s.freeIdx ∧
    (answerQuery p s).regions = s.regions ∧
    (answerQuery p s).dir = s.dir ∧
    (answerQuery p s).ovr = s.ovr ∧
    (answerQuery p s).front = s.front ∧
    (answerQuery p s).merge = s.merge ∧
    (answerQuery p s).stager = s.stager ∧
    (answerQuery p s).commit = s.commit ∧
    (answerQuery p s).lane = s.lane ∧
    (answerQuery p s).jrn = s.jrn ∧
    (answerQuery p s).img = s.img := by
  simp [answerQuery]

@[simp] theorem actQueryPoint_frame (d : List Byte) (s : State) :
    (actQueryPoint d s).pending = s.pending ∧
    (actQueryPoint d s).resetAsserted = s.resetAsserted ∧
    (actQueryPoint d s).cbStraps = s.cbStraps ∧
    (actQueryPoint d s).wallUs = s.wallUs ∧
    (actQueryPoint d s).freeIdx = s.freeIdx ∧
    (actQueryPoint d s).regions = s.regions ∧
    (actQueryPoint d s).dir = s.dir ∧
    (actQueryPoint d s).ovr = s.ovr ∧
    (actQueryPoint d s).front = s.front ∧
    (actQueryPoint d s).merge = s.merge ∧
    (actQueryPoint d s).stager = s.stager ∧
    (actQueryPoint d s).commit = s.commit ∧
    (actQueryPoint d s).lane = s.lane ∧
    (actQueryPoint d s).jrn = s.jrn ∧
    (actQueryPoint d s).img = s.img := by
  simp only [actQueryPoint]
  repeat' split
  all_goals simp

@[simp] theorem endWait_frame (w : WaitCmd) (s : State) :
    (endWait w s).pending = s.pending ∧
    (endWait w s).resetAsserted = s.resetAsserted ∧
    (endWait w s).cbStraps = s.cbStraps ∧
    (endWait w s).wallUs = s.wallUs ∧
    (endWait w s).regions = s.regions ∧
    (endWait w s).dir = s.dir ∧
    (endWait w s).ovr = s.ovr ∧
    (endWait w s).stager = s.stager ∧
    (endWait w s).img = s.img := by
  unfold endWait
  repeat' split
  all_goals (try simp)

@[simp] theorem judgeChan_frame (r : Req) (s : State) (i : Nat) :
    (judgeChan r s i).pending = s.pending ∧
    (judgeChan r s i).resetAsserted = s.resetAsserted ∧
    (judgeChan r s i).cbStraps = s.cbStraps ∧
    (judgeChan r s i).wallUs = s.wallUs ∧
    (judgeChan r s i).freeIdx = s.freeIdx ∧
    (judgeChan r s i).regions = s.regions ∧
    (judgeChan r s i).dir = s.dir ∧
    (judgeChan r s i).ovr = s.ovr ∧
    (judgeChan r s i).front = s.front ∧
    (judgeChan r s i).merge = s.merge ∧
    (judgeChan r s i).stager = s.stager ∧
    (judgeChan r s i).commit = s.commit ∧
    (judgeChan r s i).lane = s.lane ∧
    (judgeChan r s i).jrn = s.jrn ∧
    (judgeChan r s i).cmd = s.cmd ∧
    (judgeChan r s i).img = s.img := by
  simp only [judgeChan]
  repeat' split
  all_goals simp

@[simp] theorem takeChan_frame (r : Req) (s : State) (i : Nat) :
    (takeChan r s i).pending = s.pending ∧
    (takeChan r s i).resetAsserted = s.resetAsserted ∧
    (takeChan r s i).cbStraps = s.cbStraps ∧
    (takeChan r s i).wallUs = s.wallUs ∧
    (takeChan r s i).regions = s.regions ∧
    (takeChan r s i).dir = s.dir ∧
    (takeChan r s i).ovr = s.ovr ∧
    (takeChan r s i).merge = s.merge ∧
    (takeChan r s i).stager = s.stager ∧
    (takeChan r s i).commit = s.commit ∧
    (takeChan r s i).lane = s.lane ∧
    (takeChan r s i).jrn = s.jrn ∧
    (takeChan r s i).cmd = s.cmd ∧
    (takeChan r s i).img = s.img := by
  unfold takeChan
  repeat' split
  all_goals (try simp)

@[simp] theorem takeConsumed_frame (x : Word32) (s : State) :
    (takeConsumed x s).pending = s.pending ∧
    (takeConsumed x s).resetAsserted = s.resetAsserted ∧
    (takeConsumed x s).cbStraps = s.cbStraps ∧
    (takeConsumed x s).wallUs = s.wallUs ∧
    (takeConsumed x s).freeIdx = s.freeIdx ∧
    (takeConsumed x s).regions = s.regions ∧
    (takeConsumed x s).dir = s.dir ∧
    (takeConsumed x s).ovr = s.ovr ∧
    (takeConsumed x s).front = s.front ∧
    (takeConsumed x s).merge = s.merge ∧
    (takeConsumed x s).stager = s.stager ∧
    (takeConsumed x s).commit = s.commit ∧
    (takeConsumed x s).jrn = s.jrn ∧
    (takeConsumed x s).cmd = s.cmd ∧
    (takeConsumed x s).img = s.img := by
  simp only [takeConsumed]
  repeat' split
  all_goals simp

@[simp] theorem takeOwner_frame (i : BitVec 5) (b : Bool) (s : State) :
    (takeOwner i b s).pending = s.pending ∧
    (takeOwner i b s).resetAsserted = s.resetAsserted ∧
    (takeOwner i b s).cbStraps = s.cbStraps ∧
    (takeOwner i b s).wallUs = s.wallUs ∧
    (takeOwner i b s).freeIdx = s.freeIdx ∧
    (takeOwner i b s).regions = s.regions ∧
    (takeOwner i b s).dir = s.dir ∧
    (takeOwner i b s).ovr = s.ovr ∧
    (takeOwner i b s).front = s.front ∧
    (takeOwner i b s).merge = s.merge ∧
    (takeOwner i b s).stager = s.stager ∧
    (takeOwner i b s).commit = s.commit ∧
    (takeOwner i b s).lane = s.lane ∧
    (takeOwner i b s).jrn = s.jrn ∧
    (takeOwner i b s).ntc = s.ntc ∧
    (takeOwner i b s).img = s.img := by
  unfold takeOwner
  repeat' split
  all_goals (try simp)

@[simp] theorem postRefusal_frame (f : Fwd) (s : State) :
    (postRefusal f s).pending = s.pending ∧
    (postRefusal f s).resetAsserted = s.resetAsserted ∧
    (postRefusal f s).cbStraps = s.cbStraps ∧
    (postRefusal f s).wallUs = s.wallUs ∧
    (postRefusal f s).freeIdx = s.freeIdx ∧
    (postRefusal f s).regions = s.regions ∧
    (postRefusal f s).dir = s.dir ∧
    (postRefusal f s).ovr = s.ovr ∧
    (postRefusal f s).front = s.front ∧
    (postRefusal f s).merge = s.merge ∧
    (postRefusal f s).stager = s.stager ∧
    (postRefusal f s).commit = s.commit ∧
    (postRefusal f s).lane = s.lane ∧
    (postRefusal f s).jrn = s.jrn ∧
    (postRefusal f s).cmd = s.cmd ∧
    (postRefusal f s).img = s.img := by
  have h := foldl_keeps (fun u : State => (u.pending, u.resetAsserted, u.cbStraps, u.wallUs, u.freeIdx, u.regions, u.dir, u.ovr, u.front, u.merge, u.stager, u.commit, u.lane, u.jrn, u.cmd, u.img)) (judgeChan f.req) (fun _ _ => by simp)
  simp only [Prod.mk.injEq] at h
  unfold postRefusal
  repeat' split
  all_goals simp [h]

@[simp] theorem takeFields_frame (f : Fwd) (s : State) :
    (takeFields f s).pending = s.pending ∧
    (takeFields f s).resetAsserted = s.resetAsserted ∧
    (takeFields f s).cbStraps = s.cbStraps ∧
    (takeFields f s).wallUs = s.wallUs ∧
    (takeFields f s).regions = s.regions ∧
    (takeFields f s).dir = s.dir ∧
    (takeFields f s).ovr = s.ovr ∧
    (takeFields f s).stager = s.stager ∧
    (takeFields f s).commit = s.commit ∧
    (takeFields f s).jrn = s.jrn ∧
    (takeFields f s).img = s.img := by
  have h := foldl_keeps (fun u : State => (u.pending, u.resetAsserted, u.cbStraps, u.wallUs, u.regions, u.dir, u.ovr, u.stager, u.commit, u.jrn, u.img)) (takeChan f.req) (fun _ _ => by simp)
  simp only [Prod.mk.injEq] at h
  simp only [takeFields]
  repeat' split
  all_goals simp [h]

@[simp] theorem refuseHead_frame (f : Fwd) (s : State) :
    (refuseHead f s).pending = s.pending ∧
    (refuseHead f s).resetAsserted = s.resetAsserted ∧
    (refuseHead f s).cbStraps = s.cbStraps ∧
    (refuseHead f s).wallUs = s.wallUs ∧
    (refuseHead f s).freeIdx = s.freeIdx ∧
    (refuseHead f s).regions = s.regions ∧
    (refuseHead f s).dir = s.dir ∧
    (refuseHead f s).ovr = s.ovr ∧
    (refuseHead f s).front = s.front ∧
    (refuseHead f s).merge = s.merge ∧
    (refuseHead f s).stager = s.stager ∧
    (refuseHead f s).commit = s.commit ∧
    (refuseHead f s).lane = s.lane ∧
    (refuseHead f s).jrn = s.jrn ∧
    (refuseHead f s).cmd = s.cmd ∧
    (refuseHead f s).ntc = s.ntc ∧
    (refuseHead f s).img = s.img := by
  simp [refuseHead]

@[simp] theorem takeWindowRead_frame (r : Req) (c : FClass) (s : State) :
    (takeWindowRead r c s).pending = s.pending ∧
    (takeWindowRead r c s).resetAsserted = s.resetAsserted ∧
    (takeWindowRead r c s).cbStraps = s.cbStraps ∧
    (takeWindowRead r c s).wallUs = s.wallUs ∧
    (takeWindowRead r c s).freeIdx = s.freeIdx ∧
    (takeWindowRead r c s).regions = s.regions ∧
    (takeWindowRead r c s).dir = s.dir ∧
    (takeWindowRead r c s).ovr = s.ovr ∧
    (takeWindowRead r c s).front = s.front ∧
    (takeWindowRead r c s).merge = s.merge ∧
    (takeWindowRead r c s).stager = s.stager ∧
    (takeWindowRead r c s).commit = s.commit ∧
    (takeWindowRead r c s).lane = s.lane ∧
    (takeWindowRead r c s).jrn = s.jrn ∧
    (takeWindowRead r c s).cmd = s.cmd ∧
    (takeWindowRead r c s).ntc = s.ntc ∧
    (takeWindowRead r c s).img = s.img := by
  simp only [takeWindowRead]
  split <;> simp

@[simp] theorem takeRefused_frame (r : Req) (s : State) :
    (takeRefused r s).pending = s.pending ∧
    (takeRefused r s).resetAsserted = s.resetAsserted ∧
    (takeRefused r s).cbStraps = s.cbStraps ∧
    (takeRefused r s).wallUs = s.wallUs ∧
    (takeRefused r s).freeIdx = s.freeIdx ∧
    (takeRefused r s).regions = s.regions ∧
    (takeRefused r s).dir = s.dir ∧
    (takeRefused r s).ovr = s.ovr ∧
    (takeRefused r s).front = s.front ∧
    (takeRefused r s).merge = s.merge ∧
    (takeRefused r s).stager = s.stager ∧
    (takeRefused r s).commit = s.commit ∧
    (takeRefused r s).lane = s.lane ∧
    (takeRefused r s).jrn = s.jrn ∧
    (takeRefused r s).cmd = s.cmd ∧
    (takeRefused r s).ntc = s.ntc ∧
    (takeRefused r s).img = s.img := by
  simp [takeRefused]

@[simp] theorem takeForward_frame (r : Req) (s : State) :
    (takeForward r s).pending = s.pending ∧
    (takeForward r s).resetAsserted = s.resetAsserted ∧
    (takeForward r s).cbStraps = s.cbStraps ∧
    (takeForward r s).wallUs = s.wallUs ∧
    (takeForward r s).freeIdx = s.freeIdx ∧
    (takeForward r s).regions = s.regions ∧
    (takeForward r s).dir = s.dir ∧
    (takeForward r s).ovr = s.ovr ∧
    (takeForward r s).front = s.front ∧
    (takeForward r s).merge = s.merge ∧
    (takeForward r s).stager = s.stager ∧
    (takeForward r s).commit = s.commit ∧
    (takeForward r s).lane = s.lane ∧
    (takeForward r s).jrn = s.jrn ∧
    (takeForward r s).cmd = s.cmd ∧
    (takeForward r s).ntc = s.ntc ∧
    (takeForward r s).img = s.img := by
  simp [takeForward]

@[simp] theorem captureOne_frame (s : State) (w : WriteWord) :
    (captureOne s w).pending = s.pending ∧
    (captureOne s w).resetAsserted = s.resetAsserted ∧
    (captureOne s w).cbStraps = s.cbStraps ∧
    (captureOne s w).wallUs = s.wallUs ∧
    (captureOne s w).freeIdx = s.freeIdx ∧
    (captureOne s w).path = s.path ∧
    (captureOne s w).regions = s.regions ∧
    (captureOne s w).dir = s.dir ∧
    (captureOne s w).front = s.front ∧
    (captureOne s w).merge = s.merge ∧
    (captureOne s w).stager = s.stager ∧
    (captureOne s w).commit = s.commit ∧
    (captureOne s w).lane = s.lane ∧
    (captureOne s w).jrn = s.jrn ∧
    (captureOne s w).cmd = s.cmd ∧
    (captureOne s w).ntc = s.ntc ∧
    (captureOne s w).img = s.img := by
  simp only [captureOne]
  split <;> simp

@[simp] theorem captureWords_frame (g : Regions) (ws : List WriteWord) (s : State) :
    ((captureWords g ws s).1).pending = s.pending ∧
    ((captureWords g ws s).1).resetAsserted = s.resetAsserted ∧
    ((captureWords g ws s).1).cbStraps = s.cbStraps ∧
    ((captureWords g ws s).1).wallUs = s.wallUs ∧
    ((captureWords g ws s).1).freeIdx = s.freeIdx ∧
    ((captureWords g ws s).1).regions = s.regions ∧
    ((captureWords g ws s).1).dir = s.dir ∧
    ((captureWords g ws s).1).front = s.front ∧
    ((captureWords g ws s).1).merge = s.merge ∧
    ((captureWords g ws s).1).stager = s.stager ∧
    ((captureWords g ws s).1).commit = s.commit ∧
    ((captureWords g ws s).1).lane = s.lane ∧
    ((captureWords g ws s).1).jrn = s.jrn ∧
    ((captureWords g ws s).1).cmd = s.cmd ∧
    ((captureWords g ws s).1).img = s.img := by
  have h := foldl_keeps (fun u : State => (u.pending, u.resetAsserted, u.cbStraps, u.wallUs, u.freeIdx, u.regions, u.dir, u.front, u.merge, u.stager, u.commit, u.lane, u.jrn, u.cmd, u.img)) captureOne (fun _ _ => by simp)
  simp only [Prod.mk.injEq] at h
  simp only [captureWords]
  repeat' split
  all_goals simp [h]

@[simp] theorem takeWindowWrite_frame (r : Req) (s : State) :
    (takeWindowWrite r s).pending = s.pending ∧
    (takeWindowWrite r s).resetAsserted = s.resetAsserted ∧
    (takeWindowWrite r s).cbStraps = s.cbStraps ∧
    (takeWindowWrite r s).wallUs = s.wallUs ∧
    (takeWindowWrite r s).freeIdx = s.freeIdx ∧
    (takeWindowWrite r s).regions = s.regions ∧
    (takeWindowWrite r s).dir = s.dir ∧
    (takeWindowWrite r s).front = s.front ∧
    (takeWindowWrite r s).merge = s.merge ∧
    (takeWindowWrite r s).stager = s.stager ∧
    (takeWindowWrite r s).commit = s.commit ∧
    (takeWindowWrite r s).lane = s.lane ∧
    (takeWindowWrite r s).jrn = s.jrn ∧
    (takeWindowWrite r s).cmd = s.cmd ∧
    (takeWindowWrite r s).img = s.img := by
  simp only [takeWindowWrite]
  split <;> simp

@[simp] theorem readTable_frame (l : Option (List Byte)) (s : State) :
    (readTable l s).pending = s.pending ∧
    (readTable l s).resetAsserted = s.resetAsserted ∧
    (readTable l s).cbStraps = s.cbStraps ∧
    (readTable l s).wallUs = s.wallUs ∧
    (readTable l s).freeIdx = s.freeIdx ∧
    (readTable l s).regions = s.regions ∧
    (readTable l s).dir = s.dir ∧
    (readTable l s).ovr = s.ovr ∧
    (readTable l s).front = s.front ∧
    (readTable l s).merge = s.merge ∧
    (readTable l s).stager = s.stager ∧
    (readTable l s).commit = s.commit ∧
    (readTable l s).lane = s.lane ∧
    (readTable l s).jrn = s.jrn ∧
    (readTable l s).ntc = s.ntc ∧
    (readTable l s).img = s.img := by
  have h := foldl_keeps (fun u : State => (u.pending, u.resetAsserted, u.cbStraps, u.wallUs, u.freeIdx, u.regions, u.dir, u.ovr, u.front, u.merge, u.stager, u.commit, u.lane, u.jrn, u.ntc, u.img)) (fun u c => genRead (.tableRead c) (u.entryAddr c) 32 u) (fun _ _ => by simp)
  simp only [Prod.mk.injEq] at h
  simp [readTable, h]

@[simp] theorem commandRead_frame (x : Origin) (d : Option (List Byte)) (s : State) :
    (commandRead x d s).pending = s.pending ∧
    (commandRead x d s).resetAsserted = s.resetAsserted ∧
    (commandRead x d s).cbStraps = s.cbStraps ∧
    (commandRead x d s).wallUs = s.wallUs ∧
    (commandRead x d s).freeIdx = s.freeIdx ∧
    (commandRead x d s).regions = s.regions ∧
    (commandRead x d s).dir = s.dir ∧
    (commandRead x d s).ovr = s.ovr ∧
    (commandRead x d s).front = s.front ∧
    (commandRead x d s).merge = s.merge ∧
    (commandRead x d s).stager = s.stager ∧
    (commandRead x d s).commit = s.commit ∧
    (commandRead x d s).lane = s.lane ∧
    (commandRead x d s).jrn = s.jrn ∧
    (commandRead x d s).ntc = s.ntc ∧
    (commandRead x d s).img = s.img := by
  unfold commandRead
  repeat' split
  all_goals (try simp)

@[simp] theorem ownAnswer_frame (r : OwnReq) (st : MemStatus) (d : List Byte) (s : State) :
    (ownAnswer r st d s).pending = s.pending ∧
    (ownAnswer r st d s).resetAsserted = s.resetAsserted ∧
    (ownAnswer r st d s).cbStraps = s.cbStraps ∧
    (ownAnswer r st d s).wallUs = s.wallUs ∧
    (ownAnswer r st d s).freeIdx = s.freeIdx ∧
    (ownAnswer r st d s).regions = s.regions ∧
    (ownAnswer r st d s).dir = s.dir ∧
    (ownAnswer r st d s).ovr = s.ovr ∧
    (ownAnswer r st d s).front = s.front ∧
    (ownAnswer r st d s).merge = s.merge ∧
    (ownAnswer r st d s).stager = s.stager ∧
    (ownAnswer r st d s).commit = s.commit ∧
    (ownAnswer r st d s).lane = s.lane ∧
    (ownAnswer r st d s).jrn = s.jrn ∧
    (ownAnswer r st d s).ntc = s.ntc ∧
    (ownAnswer r st d s).img = s.img := by
  simp only [ownAnswer]
  split <;> simp

end Sys2Proof.Machine
end

