-- ==== Sys2Proof/Laws/Fields.lean ====
section
/-! SUPPORT. The fields an operation leaves unchanged in a block it changes otherwise. -/

namespace Sys2Proof.Machine

@[simp] theorem writeNotice_fields (g : Regions) (n : Notice) (s : State) :
    (writeNotice g n s).ntc.consumed = s.ntc.consumed ∧
    (writeNotice g n s).ntc.discarded = s.ntc.discarded ∧
    (writeNotice g n s).ntc.overflow = s.ntc.overflow ∧
    (writeNotice g n s).ntc.mask = s.ntc.mask ∧
    (writeNotice g n s).ntc.lineEn = s.ntc.lineEn ∧
    (writeNotice g n s).ntc.works = s.ntc.works ∧
    (writeNotice g n s).ntc.status = s.ntc.status := by
  refine ⟨?_, ?_, ?_, ?_, ?_, ?_, ?_⟩ <;> simp only [writeNotice]
  all_goals (try simp)

@[simp] theorem discardNotice_fields (s : State) :
    (discardNotice s).ntc.produced = s.ntc.produced ∧
    (discardNotice s).ntc.consumed = s.ntc.consumed ∧
    (discardNotice s).ntc.overflow = s.ntc.overflow ∧
    (discardNotice s).ntc.mask = s.ntc.mask ∧
    (discardNotice s).ntc.lineEn = s.ntc.lineEn ∧
    (discardNotice s).ntc.works = s.ntc.works ∧
    (discardNotice s).ntc.status = s.ntc.status := by
  refine ⟨?_, ?_, ?_, ?_, ?_, ?_, ?_⟩ <;> simp only [discardNotice]
  all_goals (try simp)

@[simp] theorem bufferNotice_fields (n : Notice) (s : State) :
    (bufferNotice n s).ntc.produced = s.ntc.produced ∧
    (bufferNotice n s).ntc.consumed = s.ntc.consumed ∧
    (bufferNotice n s).ntc.discarded = s.ntc.discarded ∧
    (bufferNotice n s).ntc.mask = s.ntc.mask ∧
    (bufferNotice n s).ntc.lineEn = s.ntc.lineEn ∧
    (bufferNotice n s).ntc.works = s.ntc.works ∧
    (bufferNotice n s).ntc.status = s.ntc.status ∧
    (bufferNotice n s).ntc.due = s.ntc.due := by
  refine ⟨?_, ?_, ?_, ?_, ?_, ?_, ?_, ?_⟩ <;> simp only [bufferNotice]
  all_goals (try simp)

@[simp] theorem post_fields (n : Notice) (s : State) :
    (post n s).ntc.consumed = s.ntc.consumed ∧
    (post n s).ntc.mask = s.ntc.mask ∧
    (post n s).ntc.lineEn = s.ntc.lineEn ∧
    (post n s).ntc.works = s.ntc.works ∧
    (post n s).ntc.status = s.ntc.status := by
  refine ⟨?_, ?_, ?_, ?_, ?_⟩ <;> simp only [post]
  all_goals (repeat' split)
  all_goals (try simp)

@[simp] theorem postLane_fields (b : NBody) (s : State) :
    (postLane b s).ntc.consumed = s.ntc.consumed ∧
    (postLane b s).ntc.mask = s.ntc.mask ∧
    (postLane b s).ntc.lineEn = s.ntc.lineEn ∧
    (postLane b s).ntc.works = s.ntc.works ∧
    (postLane b s).ntc.status = s.ntc.status := by
  refine ⟨?_, ?_, ?_, ?_, ?_⟩ <;> simp only [postLane]
  all_goals (try simp)

@[simp] theorem drainOverflow_fields (g : Regions) (l : List Notice) (s : State) :
    (drainOverflow g l s).ntc.consumed = s.ntc.consumed ∧
    (drainOverflow g l s).ntc.discarded = s.ntc.discarded ∧
    (drainOverflow g l s).ntc.mask = s.ntc.mask ∧
    (drainOverflow g l s).ntc.lineEn = s.ntc.lineEn ∧
    (drainOverflow g l s).ntc.works = s.ntc.works ∧
    (drainOverflow g l s).ntc.status = s.ntc.status := by
  refine ⟨?_, ?_, ?_, ?_, ?_, ?_⟩
  all_goals
    induction l generalizing s with
    | nil => simp [drainOverflow]
    | cons n rest ih =>
      unfold drainOverflow
      split
      · simp [ih]
      · simp [ih]

@[simp] theorem setLane_fields (l : LaneState) (s : State) :
    (setLane l s).ntc.produced = s.ntc.produced ∧
    (setLane l s).ntc.consumed = s.ntc.consumed ∧
    (setLane l s).ntc.discarded = s.ntc.discarded ∧
    (setLane l s).ntc.overflow = s.ntc.overflow ∧
    (setLane l s).ntc.mask = s.ntc.mask ∧
    (setLane l s).ntc.lineEn = s.ntc.lineEn ∧
    (setLane l s).ntc.works = s.ntc.works ∧
    (setLane l s).ntc.status = s.ntc.status := by
  refine ⟨?_, ?_, ?_, ?_, ?_, ?_, ?_, ?_⟩ <;> simp only [setLane]
  all_goals (try simp)

@[simp] theorem holdOn_fields (w : HoldReason) (s : State) :
    (holdOn w s).ntc.consumed = s.ntc.consumed ∧
    (holdOn w s).ntc.mask = s.ntc.mask ∧
    (holdOn w s).ntc.lineEn = s.ntc.lineEn ∧
    (holdOn w s).ntc.works = s.ntc.works ∧
    (holdOn w s).ntc.status = s.ntc.status := by
  refine ⟨?_, ?_, ?_, ?_, ?_⟩ <;> simp only [holdOn]
  all_goals (repeat' split)
  all_goals (try simp)

@[simp] theorem holdOff_fields (w : HoldReason) (s : State) :
    (holdOff w s).ntc.produced = s.ntc.produced ∧
    (holdOff w s).ntc.consumed = s.ntc.consumed ∧
    (holdOff w s).ntc.discarded = s.ntc.discarded ∧
    (holdOff w s).ntc.overflow = s.ntc.overflow ∧
    (holdOff w s).ntc.mask = s.ntc.mask ∧
    (holdOff w s).ntc.lineEn = s.ntc.lineEn ∧
    (holdOff w s).ntc.works = s.ntc.works ∧
    (holdOff w s).ntc.status = s.ntc.status := by
  refine ⟨?_, ?_, ?_, ?_, ?_, ?_, ?_, ?_⟩ <;> simp only [holdOff]
  all_goals (repeat' split)
  all_goals (try simp)

@[simp] theorem stopLane_fields (s : State) :
    (stopLane s).ntc.produced = s.ntc.produced ∧
    (stopLane s).ntc.consumed = s.ntc.consumed ∧
    (stopLane s).ntc.discarded = s.ntc.discarded ∧
    (stopLane s).ntc.overflow = s.ntc.overflow ∧
    (stopLane s).ntc.mask = s.ntc.mask ∧
    (stopLane s).ntc.lineEn = s.ntc.lineEn ∧
    (stopLane s).ntc.works = s.ntc.works ∧
    (stopLane s).ntc.status = s.ntc.status := by
  refine ⟨?_, ?_, ?_, ?_, ?_, ?_, ?_, ?_⟩ <;> simp only [stopLane]
  all_goals (try simp)

@[simp] theorem endHistory_fields (s : State) :
    (endHistory s).ntc.consumed = s.ntc.consumed ∧
    (endHistory s).ntc.mask = s.ntc.mask ∧
    (endHistory s).ntc.lineEn = s.ntc.lineEn ∧
    (endHistory s).ntc.works = s.ntc.works ∧
    (endHistory s).ntc.status = s.ntc.status := by
  refine ⟨?_, ?_, ?_, ?_, ?_⟩ <;> simp only [endHistory]
  all_goals (try simp)

@[simp] theorem endTest_fields (s : State) :
    (endTest s).merge.dwell = s.merge.dwell ∧
    (endTest s).merge.starve = s.merge.starve ∧
    (endTest s).merge.limit = s.merge.limit ∧
    (endTest s).merge.quantum = s.merge.quantum ∧
    (endTest s).merge.window = s.merge.window ∧
    (endTest s).merge.start = s.merge.start ∧
    (endTest s).merge.filter = s.merge.filter ∧
    (endTest s).ntc.consumed = s.ntc.consumed ∧
    (endTest s).ntc.mask = s.ntc.mask ∧
    (endTest s).ntc.lineEn = s.ntc.lineEn ∧
    (endTest s).ntc.works = s.ntc.works ∧
    (endTest s).ntc.status = s.ntc.status := by
  refine ⟨?_, ?_, ?_, ?_, ?_, ?_, ?_, ?_, ?_, ?_, ?_, ?_⟩ <;> simp only [endTest]
  all_goals (repeat' split)
  all_goals (try simp)

@[simp] theorem stopTimeTest_fields (s : State) :
    (stopTimeTest s).ntc.consumed = s.ntc.consumed ∧
    (stopTimeTest s).ntc.mask = s.ntc.mask ∧
    (stopTimeTest s).ntc.lineEn = s.ntc.lineEn ∧
    (stopTimeTest s).ntc.works = s.ntc.works ∧
    (stopTimeTest s).ntc.status = s.ntc.status := by
  refine ⟨?_, ?_, ?_, ?_, ?_⟩ <;> simp only [stopTimeTest]
  all_goals (repeat' split)
  all_goals (try simp)

@[simp] theorem placeEntry_fields (g : Regions) (h : Handed) (s : State) :
    (placeEntry g h s).jrn.oldest = s.jrn.oldest ∧
    (placeEntry g h s).jrn.wrapped = s.jrn.wrapped ∧
    (placeEntry g h s).jrn.wholeSpan = s.jrn.wholeSpan ∧
    (placeEntry g h s).jrn.marks = s.jrn.marks ∧
    (placeEntry g h s).jrn.inq = s.jrn.inq ∧
    (placeEntry g h s).jrn.wrapRead = s.jrn.wrapRead ∧
    (placeEntry g h s).jrn.walk = s.jrn.walk ∧
    (placeEntry g h s).jrn.nextTok = s.jrn.nextTok := by
  refine ⟨?_, ?_, ?_, ?_, ?_, ?_, ?_, ?_⟩ <;> simp only [placeEntry]
  all_goals (repeat' split)
  all_goals (try simp)

@[simp] theorem pumpJrn_fields (g : Regions) (l : List Handed) (s : State) :
    (pumpJrn g l s).jrn.oldest = s.jrn.oldest ∧
    (pumpJrn g l s).jrn.wrapped = s.jrn.wrapped ∧
    (pumpJrn g l s).jrn.wholeSpan = s.jrn.wholeSpan ∧
    (pumpJrn g l s).jrn.marks = s.jrn.marks ∧
    (pumpJrn g l s).jrn.walk = s.jrn.walk ∧
    (pumpJrn g l s).jrn.nextTok = s.jrn.nextTok := by
  refine ⟨?_, ?_, ?_, ?_, ?_, ?_⟩
  all_goals
    induction l generalizing s with
    | nil => simp [pumpJrn]
    | cons n rest ih =>
      unfold pumpJrn
      split
      · simp [ih]
      · simp [ih]

@[simp] theorem handIn_fields (h : Handed) (s : State) :
    (handIn h s).jrn.oldest = s.jrn.oldest ∧
    (handIn h s).jrn.wrapped = s.jrn.wrapped ∧
    (handIn h s).jrn.wholeSpan = s.jrn.wholeSpan ∧
    (handIn h s).jrn.marks = s.jrn.marks ∧
    (handIn h s).jrn.walk = s.jrn.walk ∧
    (handIn h s).jrn.nextTok = s.jrn.nextTok := by
  refine ⟨?_, ?_, ?_, ?_, ?_, ?_⟩ <;> simp only [handIn]
  all_goals (repeat' split)
  all_goals (try simp)

@[simp] theorem handLoose_fields (i : Nat) (pos : Pos) (e : JEntry) (s : State) :
    (handLoose i pos e s).jrn.oldest = s.jrn.oldest ∧
    (handLoose i pos e s).jrn.wrapped = s.jrn.wrapped ∧
    (handLoose i pos e s).jrn.wholeSpan = s.jrn.wholeSpan ∧
    (handLoose i pos e s).jrn.marks = s.jrn.marks ∧
    (handLoose i pos e s).jrn.walk = s.jrn.walk ∧
    (handLoose i pos e s).front.offsets = s.front.offsets ∧
    (handLoose i pos e s).front.discarded = s.front.discarded := by
  refine ⟨?_, ?_, ?_, ?_, ?_, ?_, ?_⟩ <;> simp only [handLoose]
  all_goals (repeat' split)
  all_goals (try simp)

@[simp] theorem moveCursor_fields (s : State) (i : Nat) :
    (moveCursor s i).front.offsets = s.front.offsets ∧
    (moveCursor s i).front.discarded = s.front.discarded := by
  refine ⟨?_, ?_⟩ <;> simp only [moveCursor]
  all_goals (repeat' split)
  all_goals (try simp)

@[simp] theorem moveCursors_fields (s : State) :
    (moveCursors s).front.offsets = s.front.offsets ∧
    (moveCursors s).front.discarded = s.front.discarded := by
  refine ⟨?_, ?_⟩
  · have h := foldl_keeps (fun u : State => u.front.offsets) moveCursor (fun _ _ => by simp)
    simp only [moveCursors]
    all_goals simp [h]
  · have h := foldl_keeps (fun u : State => u.front.discarded) moveCursor (fun _ _ => by simp)
    simp only [moveCursors]
    all_goals simp [h]

@[simp] theorem postDrained_fields (i : Nat) (c : Chan) (s : State) :
    (postDrained i c s).ntc.consumed = s.ntc.consumed ∧
    (postDrained i c s).ntc.mask = s.ntc.mask ∧
    (postDrained i c s).ntc.lineEn = s.ntc.lineEn ∧
    (postDrained i c s).ntc.works = s.ntc.works ∧
    (postDrained i c s).ntc.status = s.ntc.status := by
  refine ⟨?_, ?_, ?_, ?_, ?_⟩ <;> simp only [postDrained]
  all_goals (repeat' split)
  all_goals (try simp)

@[simp] theorem recomputeChan_fields (s : State) (i : Nat) :
    (recomputeChan s i).ntc.consumed = s.ntc.consumed ∧
    (recomputeChan s i).ntc.mask = s.ntc.mask ∧
    (recomputeChan s i).ntc.lineEn = s.ntc.lineEn ∧
    (recomputeChan s i).ntc.works = s.ntc.works ∧
    (recomputeChan s i).ntc.status = s.ntc.status ∧
    (recomputeChan s i).front.offsets = s.front.offsets ∧
    (recomputeChan s i).front.discarded = s.front.discarded := by
  refine ⟨?_, ?_, ?_, ?_, ?_, ?_, ?_⟩ <;> simp only [recomputeChan]
  all_goals (repeat' split)
  all_goals (try simp)

@[simp] theorem recomputeAll_fields (s : State) :
    (recomputeAll s).ntc.consumed = s.ntc.consumed ∧
    (recomputeAll s).ntc.mask = s.ntc.mask ∧
    (recomputeAll s).ntc.lineEn = s.ntc.lineEn ∧
    (recomputeAll s).ntc.works = s.ntc.works ∧
    (recomputeAll s).ntc.status = s.ntc.status ∧
    (recomputeAll s).front.offsets = s.front.offsets ∧
    (recomputeAll s).front.discarded = s.front.discarded := by
  refine ⟨?_, ?_, ?_, ?_, ?_, ?_, ?_⟩
  · have h := foldl_keeps (fun u : State => u.ntc.consumed) recomputeChan (fun _ _ => by simp)
    simp only [recomputeAll]
    all_goals simp [h]
  · have h := foldl_keeps (fun u : State => u.ntc.mask) recomputeChan (fun _ _ => by simp)
    simp only [recomputeAll]
    all_goals simp [h]
  · have h := foldl_keeps (fun u : State => u.ntc.lineEn) recomputeChan (fun _ _ => by simp)
    simp only [recomputeAll]
    all_goals simp [h]
  · have h := foldl_keeps (fun u : State => u.ntc.works) recomputeChan (fun _ _ => by simp)
    simp only [recomputeAll]
    all_goals simp [h]
  · have h := foldl_keeps (fun u : State => u.ntc.status) recomputeChan (fun _ _ => by simp)
    simp only [recomputeAll]
    all_goals simp [h]
  · have h := foldl_keeps (fun u : State => u.front.offsets) recomputeChan (fun _ _ => by simp)
    simp only [recomputeAll]
    all_goals simp [h]
  · have h := foldl_keeps (fun u : State => u.front.discarded) recomputeChan (fun _ _ => by simp)
    simp only [recomputeAll]
    all_goals simp [h]

@[simp] theorem takeChecked_fields (i : Nat) (pos : Pos) (s : State) :
    (takeChecked i pos s).front.offsets = s.front.offsets ∧
    (takeChecked i pos s).front.discarded = s.front.discarded := by
  refine ⟨?_, ?_⟩ <;> simp only [takeChecked]
  all_goals (try simp)

@[simp] theorem rejectRecord_fields (i : Nat) (pos : Pos) (w : Reason) (pt : Option PointNo) (a : Option (BitVec 64)) (s : State) :
    (rejectRecord i pos w pt a s).ntc.consumed = s.ntc.consumed ∧
    (rejectRecord i pos w pt a s).ntc.mask = s.ntc.mask ∧
    (rejectRecord i pos w pt a s).ntc.lineEn = s.ntc.lineEn ∧
    (rejectRecord i pos w pt a s).ntc.works = s.ntc.works ∧
    (rejectRecord i pos w pt a s).ntc.status = s.ntc.status ∧
    (rejectRecord i pos w pt a s).front.offsets = s.front.offsets ∧
    (rejectRecord i pos w pt a s).front.discarded = s.front.discarded ∧
    (rejectRecord i pos w pt a s).jrn.oldest = s.jrn.oldest ∧
    (rejectRecord i pos w pt a s).jrn.wrapped = s.jrn.wrapped ∧
    (rejectRecord i pos w pt a s).jrn.wholeSpan = s.jrn.wholeSpan ∧
    (rejectRecord i pos w pt a s).jrn.marks = s.jrn.marks ∧
    (rejectRecord i pos w pt a s).jrn.walk = s.jrn.walk := by
  refine ⟨?_, ?_, ?_, ?_, ?_, ?_, ?_, ?_, ?_, ?_, ?_, ?_⟩ <;> simp only [rejectRecord]
  all_goals (repeat' split)
  all_goals (try simp)

@[simp] theorem dropLate_fields (i : Nat) (c : Chan) (full : Bool) (r : Rec) (s : State) :
    (dropLate i c full r s).ntc.consumed = s.ntc.consumed ∧
    (dropLate i c full r s).ntc.mask = s.ntc.mask ∧
    (dropLate i c full r s).ntc.lineEn = s.ntc.lineEn ∧
    (dropLate i c full r s).ntc.works = s.ntc.works ∧
    (dropLate i c full r s).ntc.status = s.ntc.status ∧
    (dropLate i c full r s).front.offsets = s.front.offsets ∧
    (dropLate i c full r s).front.discarded = s.front.discarded ∧
    (dropLate i c full r s).jrn.oldest = s.jrn.oldest ∧
    (dropLate i c full r s).jrn.wrapped = s.jrn.wrapped ∧
    (dropLate i c full r s).jrn.wholeSpan = s.jrn.wholeSpan ∧
    (dropLate i c full r s).jrn.marks = s.jrn.marks ∧
    (dropLate i c full r s).jrn.walk = s.jrn.walk := by
  refine ⟨?_, ?_, ?_, ?_, ?_, ?_, ?_, ?_, ?_, ?_, ?_, ?_⟩ <;> simp only [dropLate]
  all_goals (try simp)

@[simp] theorem lateRecord_fields (i : Nat) (r : Rec) (s : State) :
    (lateRecord i r s).ntc.consumed = s.ntc.consumed ∧
    (lateRecord i r s).ntc.mask = s.ntc.mask ∧
    (lateRecord i r s).ntc.lineEn = s.ntc.lineEn ∧
    (lateRecord i r s).ntc.works = s.ntc.works ∧
    (lateRecord i r s).ntc.status = s.ntc.status ∧
    (lateRecord i r s).front.offsets = s.front.offsets ∧
    (lateRecord i r s).front.discarded = s.front.discarded ∧
    (lateRecord i r s).jrn.oldest = s.jrn.oldest ∧
    (lateRecord i r s).jrn.wrapped = s.jrn.wrapped ∧
    (lateRecord i r s).jrn.wholeSpan = s.jrn.wholeSpan ∧
    (lateRecord i r s).jrn.marks = s.jrn.marks ∧
    (lateRecord i r s).jrn.walk = s.jrn.walk ∧
    (lateRecord i r s).stager.cur = s.stager.cur := by
  refine ⟨?_, ?_, ?_, ?_, ?_, ?_, ?_, ?_, ?_, ?_, ?_, ?_, ?_⟩ <;> simp only [lateRecord]
  all_goals (repeat' split)
  all_goals (try simp)

@[simp] theorem rejudgeChan_fields (s : State) (i : Nat) :
    (rejudgeChan s i).ntc.consumed = s.ntc.consumed ∧
    (rejudgeChan s i).ntc.mask = s.ntc.mask ∧
    (rejudgeChan s i).ntc.lineEn = s.ntc.lineEn ∧
    (rejudgeChan s i).ntc.works = s.ntc.works ∧
    (rejudgeChan s i).ntc.status = s.ntc.status ∧
    (rejudgeChan s i).front.offsets = s.front.offsets ∧
    (rejudgeChan s i).front.discarded = s.front.discarded ∧
    (rejudgeChan s i).jrn.oldest = s.jrn.oldest ∧
    (rejudgeChan s i).jrn.wrapped = s.jrn.wrapped ∧
    (rejudgeChan s i).jrn.wholeSpan = s.jrn.wholeSpan ∧
    (rejudgeChan s i).jrn.marks = s.jrn.marks ∧
    (rejudgeChan s i).jrn.walk = s.jrn.walk ∧
    (rejudgeChan s i).stager.cur = s.stager.cur := by
  refine ⟨?_, ?_, ?_, ?_, ?_, ?_, ?_, ?_, ?_, ?_, ?_, ?_, ?_⟩
  · have h := foldl_keeps (fun u : State => u.ntc.consumed) (fun u r => lateRecord i r (takeChecked i r.pos u)) (fun _ _ => by simp)
    simp only [rejudgeChan]
    repeat' split
    all_goals simp [h]
  · have h := foldl_keeps (fun u : State => u.ntc.mask) (fun u r => lateRecord i r (takeChecked i r.pos u)) (fun _ _ => by simp)
    simp only [rejudgeChan]
    repeat' split
    all_goals simp [h]
  · have h := foldl_keeps (fun u : State => u.ntc.lineEn) (fun u r => lateRecord i r (takeChecked i r.pos u)) (fun _ _ => by simp)
    simp only [rejudgeChan]
    repeat' split
    all_goals simp [h]
  · have h := foldl_keeps (fun u : State => u.ntc.works) (fun u r => lateRecord i r (takeChecked i r.pos u)) (fun _ _ => by simp)
    simp only [rejudgeChan]
    repeat' split
    all_goals simp [h]
  · have h := foldl_keeps (fun u : State => u.ntc.status) (fun u r => lateRecord i r (takeChecked i r.pos u)) (fun _ _ => by simp)
    simp only [rejudgeChan]
    repeat' split
    all_goals simp [h]
  · have h := foldl_keeps (fun u : State => u.front.offsets) (fun u r => lateRecord i r (takeChecked i r.pos u)) (fun _ _ => by simp)
    simp only [rejudgeChan]
    repeat' split
    all_goals simp [h]
  · have h := foldl_keeps (fun u : State => u.front.discarded) (fun u r => lateRecord i r (takeChecked i r.pos u)) (fun _ _ => by simp)
    simp only [rejudgeChan]
    repeat' split
    all_goals simp [h]
  · have h := foldl_keeps (fun u : State => u.jrn.oldest) (fun u r => lateRecord i r (takeChecked i r.pos u)) (fun _ _ => by simp)
    simp only [rejudgeChan]
    repeat' split
    all_goals simp [h]
  · have h := foldl_keeps (fun u : State => u.jrn.wrapped) (fun u r => lateRecord i r (takeChecked i r.pos u)) (fun _ _ => by simp)
    simp only [rejudgeChan]
    repeat' split
    all_goals simp [h]
  · have h := foldl_keeps (fun u : State => u.jrn.wholeSpan) (fun u r => lateRecord i r (takeChecked i r.pos u)) (fun _ _ => by simp)
    simp only [rejudgeChan]
    repeat' split
    all_goals simp [h]
  · have h := foldl_keeps (fun u : State => u.jrn.marks) (fun u r => lateRecord i r (takeChecked i r.pos u)) (fun _ _ => by simp)
    simp only [rejudgeChan]
    repeat' split
    all_goals simp [h]
  · have h := foldl_keeps (fun u : State => u.jrn.walk) (fun u r => lateRecord i r (takeChecked i r.pos u)) (fun _ _ => by simp)
    simp only [rejudgeChan]
    repeat' split
    all_goals simp [h]
  · have h := foldl_keeps (fun u : State => u.stager.cur) (fun u r => lateRecord i r (takeChecked i r.pos u)) (fun _ _ => by simp)
    simp only [rejudgeChan]
    repeat' split
    all_goals simp [h]

@[simp] theorem rejudgeAll_fields (s : State) :
    (rejudgeAll s).ntc.consumed = s.ntc.consumed ∧
    (rejudgeAll s).ntc.mask = s.ntc.mask ∧
    (rejudgeAll s).ntc.lineEn = s.ntc.lineEn ∧
    (rejudgeAll s).ntc.works = s.ntc.works ∧
    (rejudgeAll s).ntc.status = s.ntc.status ∧
    (rejudgeAll s).front.offsets = s.front.offsets ∧
    (rejudgeAll s).front.discarded = s.front.discarded ∧
    (rejudgeAll s).jrn.oldest = s.jrn.oldest ∧
    (rejudgeAll s).jrn.wrapped = s.jrn.wrapped ∧
    (rejudgeAll s).jrn.wholeSpan = s.jrn.wholeSpan ∧
    (rejudgeAll s).jrn.marks = s.jrn.marks ∧
    (rejudgeAll s).jrn.walk = s.jrn.walk ∧
    (rejudgeAll s).stager.cur = s.stager.cur := by
  refine ⟨?_, ?_, ?_, ?_, ?_, ?_, ?_, ?_, ?_, ?_, ?_, ?_, ?_⟩
  · have h := foldl_keeps (fun u : State => u.ntc.consumed) rejudgeChan (fun _ _ => by simp)
    simp only [rejudgeAll]
    all_goals simp [h]
  · have h := foldl_keeps (fun u : State => u.ntc.mask) rejudgeChan (fun _ _ => by simp)
    simp only [rejudgeAll]
    all_goals simp [h]
  · have h := foldl_keeps (fun u : State => u.ntc.lineEn) rejudgeChan (fun _ _ => by simp)
    simp only [rejudgeAll]
    all_goals simp [h]
  · have h := foldl_keeps (fun u : State => u.ntc.works) rejudgeChan (fun _ _ => by simp)
    simp only [rejudgeAll]
    all_goals simp [h]
  · have h := foldl_keeps (fun u : State => u.ntc.status) rejudgeChan (fun _ _ => by simp)
    simp only [rejudgeAll]
    all_goals simp [h]
  · have h := foldl_keeps (fun u : State => u.front.offsets) rejudgeChan (fun _ _ => by simp)
    simp only [rejudgeAll]
    all_goals simp [h]
  · have h := foldl_keeps (fun u : State => u.front.discarded) rejudgeChan (fun _ _ => by simp)
    simp only [rejudgeAll]
    all_goals simp [h]
  · have h := foldl_keeps (fun u : State => u.jrn.oldest) rejudgeChan (fun _ _ => by simp)
    simp only [rejudgeAll]
    all_goals simp [h]
  · have h := foldl_keeps (fun u : State => u.jrn.wrapped) rejudgeChan (fun _ _ => by simp)
    simp only [rejudgeAll]
    all_goals simp [h]
  · have h := foldl_keeps (fun u : State => u.jrn.wholeSpan) rejudgeChan (fun _ _ => by simp)
    simp only [rejudgeAll]
    all_goals simp [h]
  · have h := foldl_keeps (fun u : State => u.jrn.marks) rejudgeChan (fun _ _ => by simp)
    simp only [rejudgeAll]
    all_goals simp [h]
  · have h := foldl_keeps (fun u : State => u.jrn.walk) rejudgeChan (fun _ _ => by simp)
    simp only [rejudgeAll]
    all_goals simp [h]
  · have h := foldl_keeps (fun u : State => u.stager.cur) rejudgeChan (fun _ _ => by simp)
    simp only [rejudgeAll]
    all_goals simp [h]

@[simp] theorem retimeRec_fields (i : Nat) (off : Int) (s : State) (r : Rec) :
    (retimeRec i off s r).ntc.consumed = s.ntc.consumed ∧
    (retimeRec i off s r).ntc.mask = s.ntc.mask ∧
    (retimeRec i off s r).ntc.lineEn = s.ntc.lineEn ∧
    (retimeRec i off s r).ntc.works = s.ntc.works ∧
    (retimeRec i off s r).ntc.status = s.ntc.status ∧
    (retimeRec i off s r).front.offsets = s.front.offsets ∧
    (retimeRec i off s r).front.discarded = s.front.discarded ∧
    (retimeRec i off s r).jrn.oldest = s.jrn.oldest ∧
    (retimeRec i off s r).jrn.wrapped = s.jrn.wrapped ∧
    (retimeRec i off s r).jrn.wholeSpan = s.jrn.wholeSpan ∧
    (retimeRec i off s r).jrn.marks = s.jrn.marks ∧
    (retimeRec i off s r).jrn.walk = s.jrn.walk ∧
    (retimeRec i off s r).stager.cur = s.stager.cur := by
  refine ⟨?_, ?_, ?_, ?_, ?_, ?_, ?_, ?_, ?_, ?_, ?_, ?_, ?_⟩ <;> simp only [retimeRec]
  all_goals (repeat' split)
  all_goals (try simp)

@[simp] theorem retimeChan_fields (b : BitVec 4) (off : Int) (s : State) (i : Nat) :
    (retimeChan b off s i).ntc.consumed = s.ntc.consumed ∧
    (retimeChan b off s i).ntc.mask = s.ntc.mask ∧
    (retimeChan b off s i).ntc.lineEn = s.ntc.lineEn ∧
    (retimeChan b off s i).ntc.works = s.ntc.works ∧
    (retimeChan b off s i).ntc.status = s.ntc.status ∧
    (retimeChan b off s i).front.offsets = s.front.offsets ∧
    (retimeChan b off s i).front.discarded = s.front.discarded ∧
    (retimeChan b off s i).jrn.oldest = s.jrn.oldest ∧
    (retimeChan b off s i).jrn.wrapped = s.jrn.wrapped ∧
    (retimeChan b off s i).jrn.wholeSpan = s.jrn.wholeSpan ∧
    (retimeChan b off s i).jrn.marks = s.jrn.marks ∧
    (retimeChan b off s i).jrn.walk = s.jrn.walk ∧
    (retimeChan b off s i).stager.cur = s.stager.cur := by
  refine ⟨?_, ?_, ?_, ?_, ?_, ?_, ?_, ?_, ?_, ?_, ?_, ?_, ?_⟩
  · have h := foldl_keeps (fun u : State => u.ntc.consumed) (retimeRec i off) (fun _ _ => by simp)
    simp only [retimeChan]
    repeat' split
    all_goals simp [h]
  · have h := foldl_keeps (fun u : State => u.ntc.mask) (retimeRec i off) (fun _ _ => by simp)
    simp only [retimeChan]
    repeat' split
    all_goals simp [h]
  · have h := foldl_keeps (fun u : State => u.ntc.lineEn) (retimeRec i off) (fun _ _ => by simp)
    simp only [retimeChan]
    repeat' split
    all_goals simp [h]
  · have h := foldl_keeps (fun u : State => u.ntc.works) (retimeRec i off) (fun _ _ => by simp)
    simp only [retimeChan]
    repeat' split
    all_goals simp [h]
  · have h := foldl_keeps (fun u : State => u.ntc.status) (retimeRec i off) (fun _ _ => by simp)
    simp only [retimeChan]
    repeat' split
    all_goals simp [h]
  · have h := foldl_keeps (fun u : State => u.front.offsets) (retimeRec i off) (fun _ _ => by simp)
    simp only [retimeChan]
    repeat' split
    all_goals simp [h]
  · have h := foldl_keeps (fun u : State => u.front.discarded) (retimeRec i off) (fun _ _ => by simp)
    simp only [retimeChan]
    repeat' split
    all_goals simp [h]
  · have h := foldl_keeps (fun u : State => u.jrn.oldest) (retimeRec i off) (fun _ _ => by simp)
    simp only [retimeChan]
    repeat' split
    all_goals simp [h]
  · have h := foldl_keeps (fun u : State => u.jrn.wrapped) (retimeRec i off) (fun _ _ => by simp)
    simp only [retimeChan]
    repeat' split
    all_goals simp [h]
  · have h := foldl_keeps (fun u : State => u.jrn.wholeSpan) (retimeRec i off) (fun _ _ => by simp)
    simp only [retimeChan]
    repeat' split
    all_goals simp [h]
  · have h := foldl_keeps (fun u : State => u.jrn.marks) (retimeRec i off) (fun _ _ => by simp)
    simp only [retimeChan]
    repeat' split
    all_goals simp [h]
  · have h := foldl_keeps (fun u : State => u.jrn.walk) (retimeRec i off) (fun _ _ => by simp)
    simp only [retimeChan]
    repeat' split
    all_goals simp [h]
  · have h := foldl_keeps (fun u : State => u.stager.cur) (retimeRec i off) (fun _ _ => by simp)
    simp only [retimeChan]
    repeat' split
    all_goals simp [h]

@[simp] theorem skewTransfer_fields (b : BitVec 4) (new : Word32) (s : State) :
    (skewTransfer b new s).ntc.consumed = s.ntc.consumed ∧
    (skewTransfer b new s).ntc.mask = s.ntc.mask ∧
    (skewTransfer b new s).ntc.lineEn = s.ntc.lineEn ∧
    (skewTransfer b new s).ntc.works = s.ntc.works ∧
    (skewTransfer b new s).ntc.status = s.ntc.status ∧
    (skewTransfer b new s).front.discarded = s.front.discarded ∧
    (skewTransfer b new s).jrn.oldest = s.jrn.oldest ∧
    (skewTransfer b new s).jrn.wrapped = s.jrn.wrapped ∧
    (skewTransfer b new s).jrn.wholeSpan = s.jrn.wholeSpan ∧
    (skewTransfer b new s).jrn.marks = s.jrn.marks ∧
    (skewTransfer b new s).jrn.walk = s.jrn.walk ∧
    (skewTransfer b new s).stager.cur = s.stager.cur := by
  refine ⟨?_, ?_, ?_, ?_, ?_, ?_, ?_, ?_, ?_, ?_, ?_, ?_⟩
  · have h := foldl_keeps (fun u : State => u.ntc.consumed) (retimeChan b new.toInt) (fun _ _ => by simp)
    simp only [skewTransfer]
    repeat' split
    all_goals simp [h]
  · have h := foldl_keeps (fun u : State => u.ntc.mask) (retimeChan b new.toInt) (fun _ _ => by simp)
    simp only [skewTransfer]
    repeat' split
    all_goals simp [h]
  · have h := foldl_keeps (fun u : State => u.ntc.lineEn) (retimeChan b new.toInt) (fun _ _ => by simp)
    simp only [skewTransfer]
    repeat' split
    all_goals simp [h]
  · have h := foldl_keeps (fun u : State => u.ntc.works) (retimeChan b new.toInt) (fun _ _ => by simp)
    simp only [skewTransfer]
    repeat' split
    all_goals simp [h]
  · have h := foldl_keeps (fun u : State => u.ntc.status) (retimeChan b new.toInt) (fun _ _ => by simp)
    simp only [skewTransfer]
    repeat' split
    all_goals simp [h]
  · have h := foldl_keeps (fun u : State => u.front.discarded) (retimeChan b new.toInt) (fun _ _ => by simp)
    simp only [skewTransfer]
    repeat' split
    all_goals simp [h]
  · have h := foldl_keeps (fun u : State => u.jrn.oldest) (retimeChan b new.toInt) (fun _ _ => by simp)
    simp only [skewTransfer]
    repeat' split
    all_goals simp [h]
  · have h := foldl_keeps (fun u : State => u.jrn.wrapped) (retimeChan b new.toInt) (fun _ _ => by simp)
    simp only [skewTransfer]
    repeat' split
    all_goals simp [h]
  · have h := foldl_keeps (fun u : State => u.jrn.wholeSpan) (retimeChan b new.toInt) (fun _ _ => by simp)
    simp only [skewTransfer]
    repeat' split
    all_goals simp [h]
  · have h := foldl_keeps (fun u : State => u.jrn.marks) (retimeChan b new.toInt) (fun _ _ => by simp)
    simp only [skewTransfer]
    repeat' split
    all_goals simp [h]
  · have h := foldl_keeps (fun u : State => u.jrn.walk) (retimeChan b new.toInt) (fun _ _ => by simp)
    simp only [skewTransfer]
    repeat' split
    all_goals simp [h]
  · have h := foldl_keeps (fun u : State => u.stager.cur) (retimeChan b new.toInt) (fun _ _ => by simp)
    simp only [skewTransfer]
    repeat' split
    all_goals simp [h]

@[simp] theorem applySet_fields (s : State) (i : Nat) :
    (applySet s i).ntc.consumed = s.ntc.consumed ∧
    (applySet s i).ntc.mask = s.ntc.mask ∧
    (applySet s i).ntc.lineEn = s.ntc.lineEn ∧
    (applySet s i).ntc.works = s.ntc.works ∧
    (applySet s i).ntc.status = s.ntc.status ∧
    (applySet s i).front.offsets = s.front.offsets ∧
    (applySet s i).front.discarded = s.front.discarded := by
  refine ⟨?_, ?_, ?_, ?_, ?_, ?_, ?_⟩ <;> simp only [applySet]
  all_goals (repeat' split)
  all_goals (try simp)

@[simp] theorem applySets_fields (s : State) :
    (applySets s).ntc.consumed = s.ntc.consumed ∧
    (applySets s).ntc.mask = s.ntc.mask ∧
    (applySets s).ntc.lineEn = s.ntc.lineEn ∧
    (applySets s).ntc.works = s.ntc.works ∧
    (applySets s).ntc.status = s.ntc.status ∧
    (applySets s).front.offsets = s.front.offsets ∧
    (applySets s).front.discarded = s.front.discarded := by
  refine ⟨?_, ?_, ?_, ?_, ?_, ?_, ?_⟩
  · have h := foldl_keeps (fun u : State => u.ntc.consumed) applySet (fun _ _ => by simp)
    simp only [applySets]
    all_goals simp [h]
  · have h := foldl_keeps (fun u : State => u.ntc.mask) applySet (fun _ _ => by simp)
    simp only [applySets]
    all_goals simp [h]
  · have h := foldl_keeps (fun u : State => u.ntc.lineEn) applySet (fun _ _ => by simp)
    simp only [applySets]
    all_goals simp [h]
  · have h := foldl_keeps (fun u : State => u.ntc.works) applySet (fun _ _ => by simp)
    simp only [applySets]
    all_goals simp [h]
  · have h := foldl_keeps (fun u : State => u.ntc.status) applySet (fun _ _ => by simp)
    simp only [applySets]
    all_goals simp [h]
  · have h := foldl_keeps (fun u : State => u.front.offsets) applySet (fun _ _ => by simp)
    simp only [applySets]
    all_goals simp [h]
  · have h := foldl_keeps (fun u : State => u.front.discarded) applySet (fun _ _ => by simp)
    simp only [applySets]
    all_goals simp [h]

@[simp] theorem rejoin_fields (i : Nat) (t : Time) (s : State) :
    (rejoin i t s).ntc.consumed = s.ntc.consumed ∧
    (rejoin i t s).ntc.mask = s.ntc.mask ∧
    (rejoin i t s).ntc.lineEn = s.ntc.lineEn ∧
    (rejoin i t s).ntc.works = s.ntc.works ∧
    (rejoin i t s).ntc.status = s.ntc.status ∧
    (rejoin i t s).front.offsets = s.front.offsets ∧
    (rejoin i t s).front.discarded = s.front.discarded := by
  refine ⟨?_, ?_, ?_, ?_, ?_, ?_, ?_⟩ <;> simp only [rejoin]
  all_goals (repeat' split)
  all_goals (try simp)

@[simp] theorem discardFetches_fields (k : Bool) (s : State) :
    (discardFetches k s).front.offsets = s.front.offsets := by
  simp only [discardFetches]
  repeat' split
  all_goals (try simp)

@[simp] theorem anchorClear_fields (s : State) :
    (anchorClear s).ntc.produced = s.ntc.produced ∧
    (anchorClear s).ntc.consumed = s.ntc.consumed ∧
    (anchorClear s).ntc.discarded = s.ntc.discarded ∧
    (anchorClear s).ntc.overflow = s.ntc.overflow ∧
    (anchorClear s).ntc.mask = s.ntc.mask ∧
    (anchorClear s).ntc.lineEn = s.ntc.lineEn ∧
    (anchorClear s).ntc.works = s.ntc.works ∧
    (anchorClear s).ntc.status = s.ntc.status := by
  refine ⟨?_, ?_, ?_, ?_, ?_, ?_, ?_, ?_⟩ <;> simp only [anchorClear]
  all_goals (repeat' split)
  all_goals (try simp)

@[simp] theorem starveReset_fields (s : State) :
    (starveReset s).merge.dwell = s.merge.dwell ∧
    (starveReset s).merge.limit = s.merge.limit ∧
    (starveReset s).merge.quantum = s.merge.quantum ∧
    (starveReset s).merge.window = s.merge.window ∧
    (starveReset s).merge.start = s.merge.start ∧
    (starveReset s).merge.filter = s.merge.filter ∧
    (starveReset s).merge.ended = s.merge.ended := by
  refine ⟨?_, ?_, ?_, ?_, ?_, ?_, ?_⟩ <;> simp only [starveReset]
  all_goals (repeat' split)
  all_goals (try simp)

/-- The accumulator alone may change. -/
@[simp] theorem paceHold_lane (s : State) :
    (paceHold s).lane.lane = s.lane.lane ∧
    (paceHold s).lane.holds = s.lane.holds ∧
    (paceHold s).lane.resume = s.lane.resume ∧
    (paceHold s).lane.runMode = s.lane.runMode ∧
    (paceHold s).lane.c = s.lane.c ∧
    (paceHold s).lane.r = s.lane.r ∧
    (paceHold s).lane.f = s.lane.f ∧
    (paceHold s).lane.group = s.lane.group ∧
    (paceHold s).lane.pace = s.lane.pace ∧
    (paceHold s).lane.stopTime = s.lane.stopTime ∧
    (paceHold s).lane.stopCount = s.lane.stopCount ∧
    (paceHold s).lane.reload = s.lane.reload ∧
    (paceHold s).lane.steps = s.lane.steps ∧
    (paceHold s).lane.stepped = s.lane.stepped ∧
    (paceHold s).lane.pend = s.lane.pend ∧
    (paceHold s).lane.fault = s.lane.fault ∧
    (paceHold s).lane.faultAddr = s.lane.faultAddr := by
  unfold paceHold
  split
  · simp only [State.updLane_lane, Timeline.heldAt]; split <;> simp
  · simp

@[simp] theorem laneTests_fields (s : State) :
    (laneTests s).merge.dwell = s.merge.dwell ∧
    (laneTests s).merge.starve = s.merge.starve ∧
    (laneTests s).merge.limit = s.merge.limit ∧
    (laneTests s).merge.quantum = s.merge.quantum ∧
    (laneTests s).merge.window = s.merge.window ∧
    (laneTests s).merge.start = s.merge.start ∧
    (laneTests s).merge.filter = s.merge.filter ∧
    (laneTests s).ntc.consumed = s.ntc.consumed ∧
    (laneTests s).ntc.mask = s.ntc.mask ∧
    (laneTests s).ntc.lineEn = s.ntc.lineEn ∧
    (laneTests s).ntc.works = s.ntc.works ∧
    (laneTests s).ntc.status = s.ntc.status := by
  refine ⟨?_, ?_, ?_, ?_, ?_, ?_, ?_, ?_, ?_, ?_, ?_, ?_⟩ <;> simp only [laneTests]
  all_goals (try simp)

@[simp] theorem recomputeLive_fields (s : State) :
    (recomputeLive s).ntc.consumed = s.ntc.consumed ∧
    (recomputeLive s).ntc.mask = s.ntc.mask ∧
    (recomputeLive s).ntc.lineEn = s.ntc.lineEn ∧
    (recomputeLive s).ntc.works = s.ntc.works ∧
    (recomputeLive s).ntc.status = s.ntc.status ∧
    (recomputeLive s).front.offsets = s.front.offsets ∧
    (recomputeLive s).front.discarded = s.front.discarded := by
  refine ⟨?_, ?_, ?_, ?_, ?_, ?_, ?_⟩ <;> simp only [recomputeLive]
  all_goals (repeat' split)
  all_goals (try simp)

@[simp] theorem settle_fields (s : State) :
    (settle s).ntc.consumed = s.ntc.consumed ∧
    (settle s).ntc.mask = s.ntc.mask ∧
    (settle s).ntc.lineEn = s.ntc.lineEn ∧
    (settle s).ntc.works = s.ntc.works ∧
    (settle s).ntc.status = s.ntc.status ∧
    (settle s).front.offsets = s.front.offsets ∧
    (settle s).front.discarded = s.front.discarded ∧
    (settle s).merge.dwell = s.merge.dwell ∧
    (settle s).merge.limit = s.merge.limit ∧
    (settle s).merge.quantum = s.merge.quantum ∧
    (settle s).merge.window = s.merge.window ∧
    (settle s).merge.start = s.merge.start ∧
    (settle s).merge.filter = s.merge.filter := by
  refine ⟨?_, ?_, ?_, ?_, ?_, ?_, ?_, ?_, ?_, ?_, ?_, ?_, ?_⟩ <;> simp only [settle]
  all_goals (try simp)

@[simp] theorem settleKeep_fields (s : State) :
    (settleKeep s).ntc.consumed = s.ntc.consumed ∧
    (settleKeep s).ntc.mask = s.ntc.mask ∧
    (settleKeep s).ntc.lineEn = s.ntc.lineEn ∧
    (settleKeep s).ntc.works = s.ntc.works ∧
    (settleKeep s).ntc.status = s.ntc.status ∧
    (settleKeep s).front.offsets = s.front.offsets ∧
    (settleKeep s).front.discarded = s.front.discarded ∧
    (settleKeep s).merge.dwell = s.merge.dwell ∧
    (settleKeep s).merge.limit = s.merge.limit ∧
    (settleKeep s).merge.quantum = s.merge.quantum ∧
    (settleKeep s).merge.window = s.merge.window ∧
    (settleKeep s).merge.start = s.merge.start ∧
    (settleKeep s).merge.filter = s.merge.filter := by
  refine ⟨?_, ?_, ?_, ?_, ?_, ?_, ?_, ?_, ?_, ?_, ?_, ?_, ?_⟩ <;> simp only [settleKeep]
  all_goals (try simp)

@[simp] theorem transferSettings_fields (s : State) :
    (transferSettings s).lane.lane = s.lane.lane ∧
    (transferSettings s).lane.resume = s.lane.resume ∧
    (transferSettings s).lane.runMode = s.lane.runMode ∧
    (transferSettings s).lane.holds = s.lane.holds ∧
    (transferSettings s).lane.c = s.lane.c ∧
    (transferSettings s).lane.r = s.lane.r ∧
    (transferSettings s).lane.f = s.lane.f ∧
    (transferSettings s).lane.group = s.lane.group ∧
    (transferSettings s).lane.acc = s.lane.acc ∧
    (transferSettings s).lane.steps = s.lane.steps ∧
    (transferSettings s).lane.stepped = s.lane.stepped ∧
    (transferSettings s).lane.fault = s.lane.fault ∧
    (transferSettings s).lane.faultAddr = s.lane.faultAddr := by
  refine ⟨?_, ?_, ?_, ?_, ?_, ?_, ?_, ?_, ?_, ?_, ?_, ?_, ?_⟩ <;> simp only [transferSettings]
  all_goals (try simp)

@[simp] theorem transferSkew_fields (s : State) (k : Nat) :
    (transferSkew s k).ntc.consumed = s.ntc.consumed ∧
    (transferSkew s k).ntc.mask = s.ntc.mask ∧
    (transferSkew s k).ntc.lineEn = s.ntc.lineEn ∧
    (transferSkew s k).ntc.works = s.ntc.works ∧
    (transferSkew s k).ntc.status = s.ntc.status ∧
    (transferSkew s k).front.discarded = s.front.discarded ∧
    (transferSkew s k).jrn.oldest = s.jrn.oldest ∧
    (transferSkew s k).jrn.wrapped = s.jrn.wrapped ∧
    (transferSkew s k).jrn.wholeSpan = s.jrn.wholeSpan ∧
    (transferSkew s k).jrn.marks = s.jrn.marks ∧
    (transferSkew s k).jrn.walk = s.jrn.walk ∧
    (transferSkew s k).stager.cur = s.stager.cur := by
  refine ⟨?_, ?_, ?_, ?_, ?_, ?_, ?_, ?_, ?_, ?_, ?_, ?_⟩ <;> simp only [transferSkew]
  all_goals (repeat' split)
  all_goals (try simp)

@[simp] theorem transferSkews_fields (s : State) :
    (transferSkews s).ntc.consumed = s.ntc.consumed ∧
    (transferSkews s).ntc.mask = s.ntc.mask ∧
    (transferSkews s).ntc.lineEn = s.ntc.lineEn ∧
    (transferSkews s).ntc.works = s.ntc.works ∧
    (transferSkews s).ntc.status = s.ntc.status ∧
    (transferSkews s).front.discarded = s.front.discarded ∧
    (transferSkews s).jrn.oldest = s.jrn.oldest ∧
    (transferSkews s).jrn.wrapped = s.jrn.wrapped ∧
    (transferSkews s).jrn.wholeSpan = s.jrn.wholeSpan ∧
    (transferSkews s).jrn.marks = s.jrn.marks ∧
    (transferSkews s).jrn.walk = s.jrn.walk ∧
    (transferSkews s).stager.cur = s.stager.cur ∧
    (transferSkews s).lane.lane = s.lane.lane ∧
    (transferSkews s).lane.resume = s.lane.resume ∧
    (transferSkews s).lane.runMode = s.lane.runMode ∧
    (transferSkews s).lane.holds = s.lane.holds ∧
    (transferSkews s).lane.c = s.lane.c ∧
    (transferSkews s).lane.r = s.lane.r ∧
    (transferSkews s).lane.f = s.lane.f ∧
    (transferSkews s).lane.group = s.lane.group ∧
    (transferSkews s).lane.pace = s.lane.pace ∧
    (transferSkews s).lane.acc = s.lane.acc ∧
    (transferSkews s).lane.stopTime = s.lane.stopTime ∧
    (transferSkews s).lane.stopCount = s.lane.stopCount ∧
    (transferSkews s).lane.reload = s.lane.reload ∧
    (transferSkews s).lane.steps = s.lane.steps ∧
    (transferSkews s).lane.stepped = s.lane.stepped ∧
    (transferSkews s).lane.fault = s.lane.fault ∧
    (transferSkews s).lane.faultAddr = s.lane.faultAddr := by
  refine ⟨?_, ?_, ?_, ?_, ?_, ?_, ?_, ?_, ?_, ?_, ?_, ?_, ?_, ?_, ?_, ?_, ?_, ?_, ?_, ?_, ?_, ?_, ?_, ?_, ?_, ?_, ?_, ?_, ?_⟩
  · have h := foldl_keeps (fun u : State => u.ntc.consumed) transferSkew (fun _ _ => by simp)
    simp only [transferSkews]
    all_goals simp [h]
  · have h := foldl_keeps (fun u : State => u.ntc.mask) transferSkew (fun _ _ => by simp)
    simp only [transferSkews]
    all_goals simp [h]
  · have h := foldl_keeps (fun u : State => u.ntc.lineEn) transferSkew (fun _ _ => by simp)
    simp only [transferSkews]
    all_goals simp [h]
  · have h := foldl_keeps (fun u : State => u.ntc.works) transferSkew (fun _ _ => by simp)
    simp only [transferSkews]
    all_goals simp [h]
  · have h := foldl_keeps (fun u : State => u.ntc.status) transferSkew (fun _ _ => by simp)
    simp only [transferSkews]
    all_goals simp [h]
  · have h := foldl_keeps (fun u : State => u.front.discarded) transferSkew (fun _ _ => by simp)
    simp only [transferSkews]
    all_goals simp [h]
  · have h := foldl_keeps (fun u : State => u.jrn.oldest) transferSkew (fun _ _ => by simp)
    simp only [transferSkews]
    all_goals simp [h]
  · have h := foldl_keeps (fun u : State => u.jrn.wrapped) transferSkew (fun _ _ => by simp)
    simp only [transferSkews]
    all_goals simp [h]
  · have h := foldl_keeps (fun u : State => u.jrn.wholeSpan) transferSkew (fun _ _ => by simp)
    simp only [transferSkews]
    all_goals simp [h]
  · have h := foldl_keeps (fun u : State => u.jrn.marks) transferSkew (fun _ _ => by simp)
    simp only [transferSkews]
    all_goals simp [h]
  · have h := foldl_keeps (fun u : State => u.jrn.walk) transferSkew (fun _ _ => by simp)
    simp only [transferSkews]
    all_goals simp [h]
  · have h := foldl_keeps (fun u : State => u.stager.cur) transferSkew (fun _ _ => by simp)
    simp only [transferSkews]
    all_goals simp [h]
  · have h := foldl_keeps (fun u : State => u.lane.lane) transferSkew (fun _ _ => by simp)
    simp only [transferSkews]
    all_goals simp [h]
  · have h := foldl_keeps (fun u : State => u.lane.resume) transferSkew (fun _ _ => by simp)
    simp only [transferSkews]
    all_goals simp [h]
  · have h := foldl_keeps (fun u : State => u.lane.runMode) transferSkew (fun _ _ => by simp)
    simp only [transferSkews]
    all_goals simp [h]
  · have h := foldl_keeps (fun u : State => u.lane.holds) transferSkew (fun _ _ => by simp)
    simp only [transferSkews]
    all_goals simp [h]
  · have h := foldl_keeps (fun u : State => u.lane.c) transferSkew (fun _ _ => by simp)
    simp only [transferSkews]
    all_goals simp [h]
  · have h := foldl_keeps (fun u : State => u.lane.r) transferSkew (fun _ _ => by simp)
    simp only [transferSkews]
    all_goals simp [h]
  · have h := foldl_keeps (fun u : State => u.lane.f) transferSkew (fun _ _ => by simp)
    simp only [transferSkews]
    all_goals simp [h]
  · have h := foldl_keeps (fun u : State => u.lane.group) transferSkew (fun _ _ => by simp)
    simp only [transferSkews]
    all_goals simp [h]
  · have h := foldl_keeps (fun u : State => u.lane.pace) transferSkew (fun _ _ => by simp)
    simp only [transferSkews]
    all_goals simp [h]
  · have h := foldl_keeps (fun u : State => u.lane.acc) transferSkew (fun _ _ => by simp)
    simp only [transferSkews]
    all_goals simp [h]
  · have h := foldl_keeps (fun u : State => u.lane.stopTime) transferSkew (fun _ _ => by simp)
    simp only [transferSkews]
    all_goals simp [h]
  · have h := foldl_keeps (fun u : State => u.lane.stopCount) transferSkew (fun _ _ => by simp)
    simp only [transferSkews]
    all_goals simp [h]
  · have h := foldl_keeps (fun u : State => u.lane.reload) transferSkew (fun _ _ => by simp)
    simp only [transferSkews]
    all_goals simp [h]
  · have h := foldl_keeps (fun u : State => u.lane.steps) transferSkew (fun _ _ => by simp)
    simp only [transferSkews]
    all_goals simp [h]
  · have h := foldl_keeps (fun u : State => u.lane.stepped) transferSkew (fun _ _ => by simp)
    simp only [transferSkews]
    all_goals simp [h]
  · have h := foldl_keeps (fun u : State => u.lane.fault) transferSkew (fun _ _ => by simp)
    simp only [transferSkews]
    all_goals simp [h]
  · have h := foldl_keeps (fun u : State => u.lane.faultAddr) transferSkew (fun _ _ => by simp)
    simp only [transferSkews]
    all_goals simp [h]

@[simp] theorem abortFlight_fields (s : State) :
    (abortFlight s).commit.flag = s.commit.flag ∧
    (abortFlight s).commit.watches = s.commit.watches ∧
    (abortFlight s).merge.dwell = s.merge.dwell ∧
    (abortFlight s).merge.starve = s.merge.starve ∧
    (abortFlight s).merge.limit = s.merge.limit ∧
    (abortFlight s).merge.quantum = s.merge.quantum ∧
    (abortFlight s).merge.window = s.merge.window ∧
    (abortFlight s).merge.start = s.merge.start ∧
    (abortFlight s).merge.ended = s.merge.ended := by
  refine ⟨?_, ?_, ?_, ?_, ?_, ?_, ?_, ?_, ?_⟩ <;> simp only [abortFlight]
  all_goals (repeat' split)
  all_goals (try simp)

@[simp] theorem failWalk_fields (s : State) :
    (failWalk s).jrn.head = s.jrn.head ∧
    (failWalk s).jrn.oldest = s.jrn.oldest ∧
    (failWalk s).jrn.wrapped = s.jrn.wrapped ∧
    (failWalk s).jrn.wholeSpan = s.jrn.wholeSpan ∧
    (failWalk s).jrn.geCount = s.jrn.geCount ∧
    (failWalk s).jrn.geps = s.jrn.geps ∧
    (failWalk s).jrn.marks = s.jrn.marks ∧
    (failWalk s).jrn.inq = s.jrn.inq ∧
    (failWalk s).jrn.wrapRead = s.jrn.wrapRead ∧
    (failWalk s).jrn.nextTok = s.jrn.nextTok := by
  refine ⟨?_, ?_, ?_, ?_, ?_, ?_, ?_, ?_, ?_, ?_⟩ <;> simp only [failWalk]
  all_goals (repeat' split)
  all_goals (try simp)

@[simp] theorem enterFault_fields (c : FaultCode) (a : Addr) (s : State) :
    (enterFault c a s).ntc.consumed = s.ntc.consumed ∧
    (enterFault c a s).ntc.mask = s.ntc.mask ∧
    (enterFault c a s).ntc.lineEn = s.ntc.lineEn ∧
    (enterFault c a s).ntc.works = s.ntc.works ∧
    (enterFault c a s).ntc.status = s.ntc.status ∧
    (enterFault c a s).front.offsets = s.front.offsets ∧
    (enterFault c a s).merge.dwell = s.merge.dwell ∧
    (enterFault c a s).merge.starve = s.merge.starve ∧
    (enterFault c a s).merge.limit = s.merge.limit ∧
    (enterFault c a s).merge.quantum = s.merge.quantum ∧
    (enterFault c a s).merge.window = s.merge.window ∧
    (enterFault c a s).merge.start = s.merge.start ∧
    (enterFault c a s).merge.ended = s.merge.ended ∧
    (enterFault c a s).commit.flag = s.commit.flag ∧
    (enterFault c a s).commit.watches = s.commit.watches ∧
    (enterFault c a s).jrn.head = s.jrn.head ∧
    (enterFault c a s).jrn.oldest = s.jrn.oldest ∧
    (enterFault c a s).jrn.wrapped = s.jrn.wrapped ∧
    (enterFault c a s).jrn.wholeSpan = s.jrn.wholeSpan ∧
    (enterFault c a s).jrn.geCount = s.jrn.geCount ∧
    (enterFault c a s).jrn.geps = s.jrn.geps ∧
    (enterFault c a s).jrn.marks = s.jrn.marks ∧
    (enterFault c a s).jrn.inq = s.jrn.inq ∧
    (enterFault c a s).jrn.wrapRead = s.jrn.wrapRead ∧
    (enterFault c a s).jrn.nextTok = s.jrn.nextTok := by
  refine ⟨?_, ?_, ?_, ?_, ?_, ?_, ?_, ?_, ?_, ?_, ?_, ?_, ?_, ?_, ?_, ?_, ?_, ?_, ?_, ?_, ?_, ?_, ?_, ?_, ?_⟩ <;> simp only [enterFault]
  all_goals (try simp)

@[simp] theorem beginSlot_fields (s : State) :
    (beginSlot s).cmd.n = s.cmd.n := by
  simp only [beginSlot]
  all_goals (try simp)

@[simp] theorem startPending_fields (s : State) :
    (startPending s).cmd.n = s.cmd.n := by
  simp only [startPending]
  repeat' split
  all_goals (try simp)

@[simp] theorem complete_fields (r : Nat) (d : List Byte) (s : State) :
    (complete r d s).ntc.produced = s.ntc.produced ∧
    (complete r d s).ntc.consumed = s.ntc.consumed ∧
    (complete r d s).ntc.discarded = s.ntc.discarded ∧
    (complete r d s).ntc.overflow = s.ntc.overflow ∧
    (complete r d s).ntc.mask = s.ntc.mask ∧
    (complete r d s).ntc.lineEn = s.ntc.lineEn ∧
    (complete r d s).ntc.works = s.ntc.works ∧
    (complete r d s).ntc.status = s.ntc.status := by
  refine ⟨?_, ?_, ?_, ?_, ?_, ?_, ?_, ?_⟩ <;> simp only [complete]
  all_goals (try simp)

@[simp] theorem badParam_fields (i : Nat) (s : State) :
    (badParam i s).ntc.produced = s.ntc.produced ∧
    (badParam i s).ntc.consumed = s.ntc.consumed ∧
    (badParam i s).ntc.discarded = s.ntc.discarded ∧
    (badParam i s).ntc.overflow = s.ntc.overflow ∧
    (badParam i s).ntc.mask = s.ntc.mask ∧
    (badParam i s).ntc.lineEn = s.ntc.lineEn ∧
    (badParam i s).ntc.works = s.ntc.works ∧
    (badParam i s).ntc.status = s.ntc.status := by
  refine ⟨?_, ?_, ?_, ?_, ?_, ?_, ?_, ?_⟩ <;> simp only [badParam]
  all_goals (try simp)

@[simp] theorem waitFor_fields (w : WaitCmd) (s : State) :
    (waitFor w s).cmd.n = s.cmd.n ∧
    (waitFor w s).cmd.pend = s.cmd.pend := by
  refine ⟨?_, ?_⟩ <;> simp only [waitFor]
  all_goals (try simp)

@[simp] theorem rewriteLine_fields (l : LaneState) (s : State) (k : Nat) :
    (rewriteLine l s k).ntc.produced = s.ntc.produced ∧
    (rewriteLine l s k).ntc.consumed = s.ntc.consumed ∧
    (rewriteLine l s k).ntc.discarded = s.ntc.discarded ∧
    (rewriteLine l s k).ntc.overflow = s.ntc.overflow ∧
    (rewriteLine l s k).ntc.mask = s.ntc.mask ∧
    (rewriteLine l s k).ntc.lineEn = s.ntc.lineEn ∧
    (rewriteLine l s k).ntc.works = s.ntc.works ∧
    (rewriteLine l s k).ntc.due = s.ntc.due := by
  refine ⟨?_, ?_, ?_, ?_, ?_, ?_, ?_, ?_⟩ <;> simp only [rewriteLine]
  all_goals (repeat' split)
  all_goals (try simp)

@[simp] theorem rewriteStatus_fields (l : LaneState) (s : State) :
    (rewriteStatus l s).ntc.produced = s.ntc.produced ∧
    (rewriteStatus l s).ntc.consumed = s.ntc.consumed ∧
    (rewriteStatus l s).ntc.discarded = s.ntc.discarded ∧
    (rewriteStatus l s).ntc.overflow = s.ntc.overflow ∧
    (rewriteStatus l s).ntc.mask = s.ntc.mask ∧
    (rewriteStatus l s).ntc.lineEn = s.ntc.lineEn ∧
    (rewriteStatus l s).ntc.works = s.ntc.works := by
  refine ⟨?_, ?_, ?_, ?_, ?_, ?_, ?_⟩
  · have h := foldl_keeps (fun u : State => u.ntc.produced) (rewriteLine l) (fun _ _ => by simp)
    simp only [rewriteStatus]
    all_goals simp [h]
  · have h := foldl_keeps (fun u : State => u.ntc.consumed) (rewriteLine l) (fun _ _ => by simp)
    simp only [rewriteStatus]
    all_goals simp [h]
  · have h := foldl_keeps (fun u : State => u.ntc.discarded) (rewriteLine l) (fun _ _ => by simp)
    simp only [rewriteStatus]
    all_goals simp [h]
  · have h := foldl_keeps (fun u : State => u.ntc.overflow) (rewriteLine l) (fun _ _ => by simp)
    simp only [rewriteStatus]
    all_goals simp [h]
  · have h := foldl_keeps (fun u : State => u.ntc.mask) (rewriteLine l) (fun _ _ => by simp)
    simp only [rewriteStatus]
    all_goals simp [h]
  · have h := foldl_keeps (fun u : State => u.ntc.lineEn) (rewriteLine l) (fun _ _ => by simp)
    simp only [rewriteStatus]
    all_goals simp [h]
  · have h := foldl_keeps (fun u : State => u.ntc.works) (rewriteLine l) (fun _ _ => by simp)
    simp only [rewriteStatus]
    all_goals simp [h]

@[simp] theorem closeEvent_fields (s : State) :
    (closeEvent s).ntc.produced = s.ntc.produced ∧
    (closeEvent s).ntc.consumed = s.ntc.consumed ∧
    (closeEvent s).ntc.discarded = s.ntc.discarded ∧
    (closeEvent s).ntc.overflow = s.ntc.overflow ∧
    (closeEvent s).ntc.mask = s.ntc.mask ∧
    (closeEvent s).ntc.lineEn = s.ntc.lineEn ∧
    (closeEvent s).ntc.works = s.ntc.works := by
  refine ⟨?_, ?_, ?_, ?_, ?_, ?_, ?_⟩ <;> simp only [closeEvent]
  all_goals (repeat' split)
  all_goals (try simp)

@[simp] theorem State.updFly_fields (s : State) (f : Flight → Flight) :
    (s.updFly f).commit.flag = s.commit.flag ∧
    (s.updFly f).commit.watches = s.commit.watches := by
  refine ⟨?_, ?_⟩ <;> simp only [State.updFly]
  all_goals (try simp)

@[simp] theorem State.updWalk_fields (s : State) (f : Walk → Walk) :
    (s.updWalk f).jrn.head = s.jrn.head ∧
    (s.updWalk f).jrn.oldest = s.jrn.oldest ∧
    (s.updWalk f).jrn.wrapped = s.jrn.wrapped ∧
    (s.updWalk f).jrn.wholeSpan = s.jrn.wholeSpan ∧
    (s.updWalk f).jrn.geCount = s.jrn.geCount ∧
    (s.updWalk f).jrn.geps = s.jrn.geps ∧
    (s.updWalk f).jrn.marks = s.jrn.marks ∧
    (s.updWalk f).jrn.inq = s.jrn.inq ∧
    (s.updWalk f).jrn.wrapRead = s.jrn.wrapRead ∧
    (s.updWalk f).jrn.nextTok = s.jrn.nextTok := by
  refine ⟨?_, ?_, ?_, ?_, ?_, ?_, ?_, ?_, ?_, ?_⟩ <;> simp only [State.updWalk]
  all_goals (try simp)

@[simp] theorem State.updPend_fields (s : State) (f : Pend → Pend) :
    (s.updPend f).lane.lane = s.lane.lane ∧
    (s.updPend f).lane.resume = s.lane.resume ∧
    (s.updPend f).lane.runMode = s.lane.runMode ∧
    (s.updPend f).lane.holds = s.lane.holds ∧
    (s.updPend f).lane.c = s.lane.c ∧
    (s.updPend f).lane.r = s.lane.r ∧
    (s.updPend f).lane.f = s.lane.f ∧
    (s.updPend f).lane.group = s.lane.group ∧
    (s.updPend f).lane.pace = s.lane.pace ∧
    (s.updPend f).lane.acc = s.lane.acc ∧
    (s.updPend f).lane.stopTime = s.lane.stopTime ∧
    (s.updPend f).lane.stopCount = s.lane.stopCount ∧
    (s.updPend f).lane.reload = s.lane.reload ∧
    (s.updPend f).lane.steps = s.lane.steps ∧
    (s.updPend f).lane.stepped = s.lane.stepped ∧
    (s.updPend f).lane.fault = s.lane.fault ∧
    (s.updPend f).lane.faultAddr = s.lane.faultAddr := by
  refine ⟨?_, ?_, ?_, ?_, ?_, ?_, ?_, ?_, ?_, ?_, ?_, ?_, ?_, ?_, ?_, ?_, ?_⟩ <;> simp only [State.updPend]
  all_goals (try simp)

@[simp] theorem lagChan_fields (s : State) (i : Nat) :
    (lagChan s i).ntc.consumed = s.ntc.consumed ∧
    (lagChan s i).ntc.mask = s.ntc.mask ∧
    (lagChan s i).ntc.lineEn = s.ntc.lineEn ∧
    (lagChan s i).ntc.works = s.ntc.works ∧
    (lagChan s i).ntc.status = s.ntc.status ∧
    (lagChan s i).front.offsets = s.front.offsets ∧
    (lagChan s i).front.discarded = s.front.discarded := by
  refine ⟨?_, ?_, ?_, ?_, ?_, ?_, ?_⟩ <;> simp only [lagChan]
  all_goals (repeat' split)
  all_goals (try simp)

@[simp] theorem starveTick_fields (s : State) :
    (starveTick  s).merge.dwell = s.merge.dwell ∧
    (starveTick  s).merge.limit = s.merge.limit ∧
    (starveTick  s).merge.quantum = s.merge.quantum ∧
    (starveTick  s).merge.window = s.merge.window ∧
    (starveTick  s).merge.start = s.merge.start ∧
    (starveTick  s).merge.filter = s.merge.filter ∧
    (starveTick  s).merge.ended = s.merge.ended := by
  refine ⟨?_, ?_, ?_, ?_, ?_, ?_, ?_⟩ <;> simp only [starveTick]
  all_goals (repeat' split)
  all_goals (try simp)

@[simp] theorem expireStarvation_fields (s : State) :
    (expireStarvation  s).ntc.consumed = s.ntc.consumed ∧
    (expireStarvation  s).ntc.mask = s.ntc.mask ∧
    (expireStarvation  s).ntc.lineEn = s.ntc.lineEn ∧
    (expireStarvation  s).ntc.works = s.ntc.works ∧
    (expireStarvation  s).ntc.status = s.ntc.status ∧
    (expireStarvation  s).front.offsets = s.front.offsets ∧
    (expireStarvation  s).front.discarded = s.front.discarded ∧
    (expireStarvation  s).merge.dwell = s.merge.dwell ∧
    (expireStarvation  s).merge.limit = s.merge.limit ∧
    (expireStarvation  s).merge.quantum = s.merge.quantum ∧
    (expireStarvation  s).merge.window = s.merge.window ∧
    (expireStarvation  s).merge.start = s.merge.start ∧
    (expireStarvation  s).merge.filter = s.merge.filter := by
  refine ⟨?_, ?_, ?_, ?_, ?_, ?_, ?_, ?_, ?_, ?_, ?_, ?_, ?_⟩
  · have h := foldl_keeps (fun u : State => u.ntc.consumed) lagChan (fun _ _ => by simp)
    simp only [expireStarvation]
    repeat' split
    all_goals simp [h]
  · have h := foldl_keeps (fun u : State => u.ntc.mask) lagChan (fun _ _ => by simp)
    simp only [expireStarvation]
    repeat' split
    all_goals simp [h]
  · have h := foldl_keeps (fun u : State => u.ntc.lineEn) lagChan (fun _ _ => by simp)
    simp only [expireStarvation]
    repeat' split
    all_goals simp [h]
  · have h := foldl_keeps (fun u : State => u.ntc.works) lagChan (fun _ _ => by simp)
    simp only [expireStarvation]
    repeat' split
    all_goals simp [h]
  · have h := foldl_keeps (fun u : State => u.ntc.status) lagChan (fun _ _ => by simp)
    simp only [expireStarvation]
    repeat' split
    all_goals simp [h]
  · have h := foldl_keeps (fun u : State => u.front.offsets) lagChan (fun _ _ => by simp)
    simp only [expireStarvation]
    repeat' split
    all_goals simp [h]
  · have h := foldl_keeps (fun u : State => u.front.discarded) lagChan (fun _ _ => by simp)
    simp only [expireStarvation]
    repeat' split
    all_goals simp [h]
  · have h := foldl_keeps (fun u : State => u.merge.dwell) lagChan (fun _ _ => by simp)
    simp only [expireStarvation]
    repeat' split
    all_goals simp [h]
  · have h := foldl_keeps (fun u : State => u.merge.limit) lagChan (fun _ _ => by simp)
    simp only [expireStarvation]
    repeat' split
    all_goals simp [h]
  · have h := foldl_keeps (fun u : State => u.merge.quantum) lagChan (fun _ _ => by simp)
    simp only [expireStarvation]
    repeat' split
    all_goals simp [h]
  · have h := foldl_keeps (fun u : State => u.merge.window) lagChan (fun _ _ => by simp)
    simp only [expireStarvation]
    repeat' split
    all_goals simp [h]
  · have h := foldl_keeps (fun u : State => u.merge.start) lagChan (fun _ _ => by simp)
    simp only [expireStarvation]
    repeat' split
    all_goals simp [h]
  · have h := foldl_keeps (fun u : State => u.merge.filter) lagChan (fun _ _ => by simp)
    simp only [expireStarvation]
    repeat' split
    all_goals simp [h]

@[simp] theorem admitLate_fields (s : State) :
    (admitLate  s).ntc.consumed = s.ntc.consumed ∧
    (admitLate  s).ntc.mask = s.ntc.mask ∧
    (admitLate  s).ntc.lineEn = s.ntc.lineEn ∧
    (admitLate  s).ntc.works = s.ntc.works ∧
    (admitLate  s).ntc.status = s.ntc.status ∧
    (admitLate  s).front.offsets = s.front.offsets ∧
    (admitLate  s).front.discarded = s.front.discarded ∧
    (admitLate  s).merge.dwell = s.merge.dwell ∧
    (admitLate  s).merge.limit = s.merge.limit ∧
    (admitLate  s).merge.quantum = s.merge.quantum ∧
    (admitLate  s).merge.window = s.merge.window ∧
    (admitLate  s).merge.start = s.merge.start ∧
    (admitLate  s).merge.filter = s.merge.filter ∧
    (admitLate  s).commit.flag = s.commit.flag ∧
    (admitLate  s).commit.watches = s.commit.watches := by
  refine ⟨?_, ?_, ?_, ?_, ?_, ?_, ?_, ?_, ?_, ?_, ?_, ?_, ?_, ?_, ?_⟩ <;> simp only [admitLate]
  all_goals (try simp)

@[simp] theorem admitTimed_fields (tg : Nat) (s : State) :
    (admitTimed tg s).ntc.consumed = s.ntc.consumed ∧
    (admitTimed tg s).ntc.mask = s.ntc.mask ∧
    (admitTimed tg s).ntc.lineEn = s.ntc.lineEn ∧
    (admitTimed tg s).ntc.works = s.ntc.works ∧
    (admitTimed tg s).ntc.status = s.ntc.status ∧
    (admitTimed tg s).front.offsets = s.front.offsets ∧
    (admitTimed tg s).front.discarded = s.front.discarded ∧
    (admitTimed tg s).merge.dwell = s.merge.dwell ∧
    (admitTimed tg s).merge.limit = s.merge.limit ∧
    (admitTimed tg s).merge.quantum = s.merge.quantum ∧
    (admitTimed tg s).merge.window = s.merge.window ∧
    (admitTimed tg s).merge.start = s.merge.start ∧
    (admitTimed tg s).merge.filter = s.merge.filter ∧
    (admitTimed tg s).commit.flag = s.commit.flag ∧
    (admitTimed tg s).commit.watches = s.commit.watches := by
  refine ⟨?_, ?_, ?_, ?_, ?_, ?_, ?_, ?_, ?_, ?_, ?_, ?_, ?_, ?_, ?_⟩ <;> simp only [admitTimed]
  all_goals (repeat' split)
  all_goals (try simp)

@[simp] theorem endFormation_fields (b : Bool) (s : State) :
    (endFormation b s).commit.flag = s.commit.flag ∧
    (endFormation b s).commit.watches = s.commit.watches := by
  refine ⟨?_, ?_⟩ <;> simp only [endFormation]
  all_goals (try simp)

@[simp] theorem splitGroup_fields (s : State) :
    (splitGroup  s).ntc.consumed = s.ntc.consumed ∧
    (splitGroup  s).ntc.mask = s.ntc.mask ∧
    (splitGroup  s).ntc.lineEn = s.ntc.lineEn ∧
    (splitGroup  s).ntc.works = s.ntc.works ∧
    (splitGroup  s).ntc.status = s.ntc.status ∧
    (splitGroup  s).commit.flag = s.commit.flag ∧
    (splitGroup  s).commit.watches = s.commit.watches := by
  refine ⟨?_, ?_, ?_, ?_, ?_, ?_, ?_⟩ <;> simp only [splitGroup]
  all_goals (repeat' split)
  all_goals (try simp)

@[simp] theorem stage_fields (it : Item) (s : State) :
    (stage it s).stager.late = s.stager.late := by
  simp only [stage]
  all_goals (try simp)

@[simp] theorem pullRelease_fields (e : DwellEntry) (s : State) :
    (pullRelease e s).ntc.consumed = s.ntc.consumed ∧
    (pullRelease e s).ntc.mask = s.ntc.mask ∧
    (pullRelease e s).ntc.lineEn = s.ntc.lineEn ∧
    (pullRelease e s).ntc.works = s.ntc.works ∧
    (pullRelease e s).ntc.status = s.ntc.status ∧
    (pullRelease e s).commit.flag = s.commit.flag ∧
    (pullRelease e s).commit.watches = s.commit.watches ∧
    (pullRelease e s).stager.late = s.stager.late ∧
    (pullRelease e s).merge.starve = s.merge.starve ∧
    (pullRelease e s).merge.limit = s.merge.limit ∧
    (pullRelease e s).merge.quantum = s.merge.quantum ∧
    (pullRelease e s).merge.window = s.merge.window ∧
    (pullRelease e s).merge.start = s.merge.start ∧
    (pullRelease e s).merge.filter = s.merge.filter ∧
    (pullRelease e s).merge.ended = s.merge.ended := by
  refine ⟨?_, ?_, ?_, ?_, ?_, ?_, ?_, ?_, ?_, ?_, ?_, ?_, ?_, ?_, ?_⟩ <;> simp only [pullRelease]
  all_goals (repeat' split)
  all_goals (try simp)

@[simp] theorem pullItem_fields (i : Nat) (r : Rec) (it : Item) (s : State) :
    (pullItem i r it s).ntc.consumed = s.ntc.consumed ∧
    (pullItem i r it s).ntc.mask = s.ntc.mask ∧
    (pullItem i r it s).ntc.lineEn = s.ntc.lineEn ∧
    (pullItem i r it s).ntc.works = s.ntc.works ∧
    (pullItem i r it s).ntc.status = s.ntc.status ∧
    (pullItem i r it s).commit.flag = s.commit.flag ∧
    (pullItem i r it s).commit.watches = s.commit.watches ∧
    (pullItem i r it s).stager.late = s.stager.late ∧
    (pullItem i r it s).front.offsets = s.front.offsets ∧
    (pullItem i r it s).front.discarded = s.front.discarded := by
  refine ⟨?_, ?_, ?_, ?_, ?_, ?_, ?_, ?_, ?_, ?_⟩ <;> simp only [pullItem]
  all_goals (repeat' split)
  all_goals (try simp)

@[simp] theorem holdChange_fields (i : Nat) (r : Rec) (cls : BitVec 2) (s : State) :
    (holdChange i r cls s).front.offsets = s.front.offsets ∧
    (holdChange i r cls s).front.discarded = s.front.discarded ∧
    (holdChange i r cls s).jrn.oldest = s.jrn.oldest ∧
    (holdChange i r cls s).jrn.wrapped = s.jrn.wrapped ∧
    (holdChange i r cls s).jrn.wholeSpan = s.jrn.wholeSpan ∧
    (holdChange i r cls s).jrn.marks = s.jrn.marks ∧
    (holdChange i r cls s).jrn.walk = s.jrn.walk ∧
    (holdChange i r cls s).merge.starve = s.merge.starve ∧
    (holdChange i r cls s).merge.limit = s.merge.limit ∧
    (holdChange i r cls s).merge.quantum = s.merge.quantum ∧
    (holdChange i r cls s).merge.window = s.merge.window ∧
    (holdChange i r cls s).merge.start = s.merge.start ∧
    (holdChange i r cls s).merge.filter = s.merge.filter ∧
    (holdChange i r cls s).merge.ended = s.merge.ended := by
  refine ⟨?_, ?_, ?_, ?_, ?_, ?_, ?_, ?_, ?_, ?_, ?_, ?_, ?_, ?_⟩ <;> simp only [holdChange]
  all_goals (try simp)

@[simp] theorem takeUnfiltered_fields (i : Nat) (r : Rec) (s : State) :
    (takeUnfiltered i r s).ntc.consumed = s.ntc.consumed ∧
    (takeUnfiltered i r s).ntc.mask = s.ntc.mask ∧
    (takeUnfiltered i r s).ntc.lineEn = s.ntc.lineEn ∧
    (takeUnfiltered i r s).ntc.works = s.ntc.works ∧
    (takeUnfiltered i r s).ntc.status = s.ntc.status ∧
    (takeUnfiltered i r s).front.offsets = s.front.offsets ∧
    (takeUnfiltered i r s).front.discarded = s.front.discarded ∧
    (takeUnfiltered i r s).commit.flag = s.commit.flag ∧
    (takeUnfiltered i r s).commit.watches = s.commit.watches ∧
    (takeUnfiltered i r s).stager.late = s.stager.late := by
  refine ⟨?_, ?_, ?_, ?_, ?_, ?_, ?_, ?_, ?_, ?_⟩ <;> simp only [takeUnfiltered]
  all_goals (repeat' split)
  all_goals (try simp)

@[simp] theorem revertChange_fields (i : Nat) (r : Rec) (e : DwellEntry) (s : State) :
    (revertChange i r e s).ntc.consumed = s.ntc.consumed ∧
    (revertChange i r e s).ntc.mask = s.ntc.mask ∧
    (revertChange i r e s).ntc.lineEn = s.ntc.lineEn ∧
    (revertChange i r e s).ntc.works = s.ntc.works ∧
    (revertChange i r e s).ntc.status = s.ntc.status ∧
    (revertChange i r e s).front.offsets = s.front.offsets ∧
    (revertChange i r e s).front.discarded = s.front.discarded ∧
    (revertChange i r e s).commit.flag = s.commit.flag ∧
    (revertChange i r e s).commit.watches = s.commit.watches ∧
    (revertChange i r e s).stager.late = s.stager.late ∧
    (revertChange i r e s).merge.starve = s.merge.starve ∧
    (revertChange i r e s).merge.limit = s.merge.limit ∧
    (revertChange i r e s).merge.quantum = s.merge.quantum ∧
    (revertChange i r e s).merge.window = s.merge.window ∧
    (revertChange i r e s).merge.start = s.merge.start ∧
    (revertChange i r e s).merge.filter = s.merge.filter ∧
    (revertChange i r e s).merge.ended = s.merge.ended := by
  refine ⟨?_, ?_, ?_, ?_, ?_, ?_, ?_, ?_, ?_, ?_, ?_, ?_, ?_, ?_, ?_, ?_, ?_⟩ <;> simp only [revertChange]
  all_goals (repeat' split)
  all_goals (try simp)

@[simp] theorem supersedeChange_fields (i : Nat) (r : Rec) (e : DwellEntry) (s : State) :
    (supersedeChange i r e s).front.offsets = s.front.offsets ∧
    (supersedeChange i r e s).front.discarded = s.front.discarded ∧
    (supersedeChange i r e s).jrn.oldest = s.jrn.oldest ∧
    (supersedeChange i r e s).jrn.wrapped = s.jrn.wrapped ∧
    (supersedeChange i r e s).jrn.wholeSpan = s.jrn.wholeSpan ∧
    (supersedeChange i r e s).jrn.marks = s.jrn.marks ∧
    (supersedeChange i r e s).jrn.walk = s.jrn.walk ∧
    (supersedeChange i r e s).merge.starve = s.merge.starve ∧
    (supersedeChange i r e s).merge.limit = s.merge.limit ∧
    (supersedeChange i r e s).merge.quantum = s.merge.quantum ∧
    (supersedeChange i r e s).merge.window = s.merge.window ∧
    (supersedeChange i r e s).merge.start = s.merge.start ∧
    (supersedeChange i r e s).merge.filter = s.merge.filter ∧
    (supersedeChange i r e s).merge.ended = s.merge.ended := by
  refine ⟨?_, ?_, ?_, ?_, ?_, ?_, ?_, ?_, ?_, ?_, ?_, ?_, ?_, ?_⟩ <;> simp only [supersedeChange]
  all_goals (try simp)

@[simp] theorem repeatChange_fields (i : Nat) (r : Rec) (w : PointWord) (s : State) :
    (repeatChange i r w s).front.offsets = s.front.offsets ∧
    (repeatChange i r w s).front.discarded = s.front.discarded ∧
    (repeatChange i r w s).jrn.oldest = s.jrn.oldest ∧
    (repeatChange i r w s).jrn.wrapped = s.jrn.wrapped ∧
    (repeatChange i r w s).jrn.wholeSpan = s.jrn.wholeSpan ∧
    (repeatChange i r w s).jrn.marks = s.jrn.marks ∧
    (repeatChange i r w s).jrn.walk = s.jrn.walk := by
  refine ⟨?_, ?_, ?_, ?_, ?_, ?_, ?_⟩ <;> simp only [repeatChange]
  all_goals (try simp)

@[simp] theorem filterDecision_fields (i : Nat) (r : Rec) (cls : BitVec 2) (v : Word32) (s : State) :
    (filterDecision i r cls v s).ntc.consumed = s.ntc.consumed ∧
    (filterDecision i r cls v s).ntc.mask = s.ntc.mask ∧
    (filterDecision i r cls v s).ntc.lineEn = s.ntc.lineEn ∧
    (filterDecision i r cls v s).ntc.works = s.ntc.works ∧
    (filterDecision i r cls v s).ntc.status = s.ntc.status ∧
    (filterDecision i r cls v s).front.offsets = s.front.offsets ∧
    (filterDecision i r cls v s).front.discarded = s.front.discarded ∧
    (filterDecision i r cls v s).jrn.oldest = s.jrn.oldest ∧
    (filterDecision i r cls v s).jrn.wrapped = s.jrn.wrapped ∧
    (filterDecision i r cls v s).jrn.wholeSpan = s.jrn.wholeSpan ∧
    (filterDecision i r cls v s).jrn.marks = s.jrn.marks ∧
    (filterDecision i r cls v s).jrn.walk = s.jrn.walk ∧
    (filterDecision i r cls v s).merge.starve = s.merge.starve ∧
    (filterDecision i r cls v s).merge.limit = s.merge.limit ∧
    (filterDecision i r cls v s).merge.quantum = s.merge.quantum ∧
    (filterDecision i r cls v s).merge.window = s.merge.window ∧
    (filterDecision i r cls v s).merge.start = s.merge.start ∧
    (filterDecision i r cls v s).merge.filter = s.merge.filter ∧
    (filterDecision i r cls v s).merge.ended = s.merge.ended ∧
    (filterDecision i r cls v s).commit.flag = s.commit.flag ∧
    (filterDecision i r cls v s).commit.watches = s.commit.watches ∧
    (filterDecision i r cls v s).stager.late = s.stager.late := by
  refine ⟨?_, ?_, ?_, ?_, ?_, ?_, ?_, ?_, ?_, ?_, ?_, ?_, ?_, ?_, ?_, ?_, ?_, ?_, ?_, ?_, ?_, ?_⟩ <;> simp only [filterDecision]
  all_goals (repeat' split)
  all_goals (try simp)

@[simp] theorem readFilter_fields (i : Nat) (r : Rec) (cls : BitVec 2) (b : Bool) (s : State) :
    (readFilter i r cls b s).merge.dwell = s.merge.dwell ∧
    (readFilter i r cls b s).merge.starve = s.merge.starve ∧
    (readFilter i r cls b s).merge.limit = s.merge.limit ∧
    (readFilter i r cls b s).merge.quantum = s.merge.quantum ∧
    (readFilter i r cls b s).merge.window = s.merge.window ∧
    (readFilter i r cls b s).merge.start = s.merge.start ∧
    (readFilter i r cls b s).merge.ended = s.merge.ended := by
  refine ⟨?_, ?_, ?_, ?_, ?_, ?_, ?_⟩ <;> simp only [readFilter]
  all_goals (try simp)

@[simp] theorem filterRecord_fields (i : Nat) (r : Rec) (cls : BitVec 2) (s : State) :
    (filterRecord i r cls s).ntc.consumed = s.ntc.consumed ∧
    (filterRecord i r cls s).ntc.mask = s.ntc.mask ∧
    (filterRecord i r cls s).ntc.lineEn = s.ntc.lineEn ∧
    (filterRecord i r cls s).ntc.works = s.ntc.works ∧
    (filterRecord i r cls s).ntc.status = s.ntc.status ∧
    (filterRecord i r cls s).front.offsets = s.front.offsets ∧
    (filterRecord i r cls s).front.discarded = s.front.discarded ∧
    (filterRecord i r cls s).jrn.oldest = s.jrn.oldest ∧
    (filterRecord i r cls s).jrn.wrapped = s.jrn.wrapped ∧
    (filterRecord i r cls s).jrn.wholeSpan = s.jrn.wholeSpan ∧
    (filterRecord i r cls s).jrn.marks = s.jrn.marks ∧
    (filterRecord i r cls s).jrn.walk = s.jrn.walk ∧
    (filterRecord i r cls s).merge.starve = s.merge.starve ∧
    (filterRecord i r cls s).merge.limit = s.merge.limit ∧
    (filterRecord i r cls s).merge.quantum = s.merge.quantum ∧
    (filterRecord i r cls s).merge.window = s.merge.window ∧
    (filterRecord i r cls s).merge.start = s.merge.start ∧
    (filterRecord i r cls s).merge.ended = s.merge.ended ∧
    (filterRecord i r cls s).commit.flag = s.commit.flag ∧
    (filterRecord i r cls s).commit.watches = s.commit.watches ∧
    (filterRecord i r cls s).stager.late = s.stager.late := by
  refine ⟨?_, ?_, ?_, ?_, ?_, ?_, ?_, ?_, ?_, ?_, ?_, ?_, ?_, ?_, ?_, ?_, ?_, ?_, ?_, ?_, ?_⟩ <;> simp only [filterRecord]
  all_goals (repeat' split)
  all_goals (try simp)

@[simp] theorem pullHead_fields (i : Nat) (r : Rec) (s : State) :
    (pullHead i r s).ntc.consumed = s.ntc.consumed ∧
    (pullHead i r s).ntc.mask = s.ntc.mask ∧
    (pullHead i r s).ntc.lineEn = s.ntc.lineEn ∧
    (pullHead i r s).ntc.works = s.ntc.works ∧
    (pullHead i r s).ntc.status = s.ntc.status ∧
    (pullHead i r s).front.offsets = s.front.offsets ∧
    (pullHead i r s).front.discarded = s.front.discarded ∧
    (pullHead i r s).jrn.oldest = s.jrn.oldest ∧
    (pullHead i r s).jrn.wrapped = s.jrn.wrapped ∧
    (pullHead i r s).jrn.wholeSpan = s.jrn.wholeSpan ∧
    (pullHead i r s).jrn.marks = s.jrn.marks ∧
    (pullHead i r s).jrn.walk = s.jrn.walk ∧
    (pullHead i r s).merge.starve = s.merge.starve ∧
    (pullHead i r s).merge.limit = s.merge.limit ∧
    (pullHead i r s).merge.quantum = s.merge.quantum ∧
    (pullHead i r s).merge.window = s.merge.window ∧
    (pullHead i r s).merge.start = s.merge.start ∧
    (pullHead i r s).merge.ended = s.merge.ended ∧
    (pullHead i r s).commit.flag = s.commit.flag ∧
    (pullHead i r s).commit.watches = s.commit.watches ∧
    (pullHead i r s).stager.late = s.stager.late := by
  refine ⟨?_, ?_, ?_, ?_, ?_, ?_, ?_, ?_, ?_, ?_, ?_, ?_, ?_, ?_, ?_, ?_, ?_, ?_, ?_, ?_, ?_⟩ <;> simp only [pullHead]
  all_goals (repeat' split)
  all_goals (try simp)

@[simp] theorem pull_fields (c : Option (Key × Source)) (s : State) :
    (pull c s).ntc.consumed = s.ntc.consumed ∧
    (pull c s).ntc.mask = s.ntc.mask ∧
    (pull c s).ntc.lineEn = s.ntc.lineEn ∧
    (pull c s).ntc.works = s.ntc.works ∧
    (pull c s).ntc.status = s.ntc.status ∧
    (pull c s).front.offsets = s.front.offsets ∧
    (pull c s).front.discarded = s.front.discarded ∧
    (pull c s).jrn.oldest = s.jrn.oldest ∧
    (pull c s).jrn.wrapped = s.jrn.wrapped ∧
    (pull c s).jrn.wholeSpan = s.jrn.wholeSpan ∧
    (pull c s).jrn.marks = s.jrn.marks ∧
    (pull c s).jrn.walk = s.jrn.walk ∧
    (pull c s).merge.starve = s.merge.starve ∧
    (pull c s).merge.limit = s.merge.limit ∧
    (pull c s).merge.quantum = s.merge.quantum ∧
    (pull c s).merge.window = s.merge.window ∧
    (pull c s).merge.start = s.merge.start ∧
    (pull c s).merge.ended = s.merge.ended ∧
    (pull c s).commit.flag = s.commit.flag ∧
    (pull c s).commit.watches = s.commit.watches ∧
    (pull c s).stager.late = s.stager.late := by
  refine ⟨?_, ?_, ?_, ?_, ?_, ?_, ?_, ?_, ?_, ?_, ?_, ?_, ?_, ?_, ?_, ?_, ?_, ?_, ?_, ?_, ?_⟩ <;> simp only [pull]
  all_goals (repeat' split)
  all_goals (try simp)

@[simp] theorem filterRead_fields (op : FilterOp) (r : Ret) (s : State) :
    (filterRead op r s).ntc.consumed = s.ntc.consumed ∧
    (filterRead op r s).ntc.mask = s.ntc.mask ∧
    (filterRead op r s).ntc.lineEn = s.ntc.lineEn ∧
    (filterRead op r s).ntc.works = s.ntc.works ∧
    (filterRead op r s).ntc.status = s.ntc.status ∧
    (filterRead op r s).front.offsets = s.front.offsets ∧
    (filterRead op r s).front.discarded = s.front.discarded ∧
    (filterRead op r s).jrn.oldest = s.jrn.oldest ∧
    (filterRead op r s).jrn.wrapped = s.jrn.wrapped ∧
    (filterRead op r s).jrn.wholeSpan = s.jrn.wholeSpan ∧
    (filterRead op r s).jrn.marks = s.jrn.marks ∧
    (filterRead op r s).jrn.walk = s.jrn.walk ∧
    (filterRead op r s).merge.starve = s.merge.starve ∧
    (filterRead op r s).merge.limit = s.merge.limit ∧
    (filterRead op r s).merge.quantum = s.merge.quantum ∧
    (filterRead op r s).merge.window = s.merge.window ∧
    (filterRead op r s).merge.start = s.merge.start ∧
    (filterRead op r s).merge.ended = s.merge.ended ∧
    (filterRead op r s).commit.flag = s.commit.flag ∧
    (filterRead op r s).commit.watches = s.commit.watches ∧
    (filterRead op r s).stager.late = s.stager.late := by
  refine ⟨?_, ?_, ?_, ?_, ?_, ?_, ?_, ?_, ?_, ?_, ?_, ?_, ?_, ?_, ?_, ?_, ?_, ?_, ?_, ?_, ?_⟩ <;> simp only [filterRead]
  all_goals (repeat' split)
  all_goals (try simp)

@[simp] theorem issueFetch_fields (i : Nat) (c : Chan) (s : State) :
    (issueFetch i c s).ntc.consumed = s.ntc.consumed ∧
    (issueFetch i c s).ntc.mask = s.ntc.mask ∧
    (issueFetch i c s).ntc.lineEn = s.ntc.lineEn ∧
    (issueFetch i c s).ntc.works = s.ntc.works ∧
    (issueFetch i c s).ntc.status = s.ntc.status ∧
    (issueFetch i c s).front.offsets = s.front.offsets ∧
    (issueFetch i c s).front.discarded = s.front.discarded ∧
    (issueFetch i c s).merge.dwell = s.merge.dwell ∧
    (issueFetch i c s).merge.limit = s.merge.limit ∧
    (issueFetch i c s).merge.quantum = s.merge.quantum ∧
    (issueFetch i c s).merge.window = s.merge.window ∧
    (issueFetch i c s).merge.start = s.merge.start ∧
    (issueFetch i c s).merge.filter = s.merge.filter := by
  refine ⟨?_, ?_, ?_, ?_, ?_, ?_, ?_, ?_, ?_, ?_, ?_, ?_, ?_⟩ <;> simp only [issueFetch]
  all_goals (try simp)

@[simp] theorem dropDiscarded_fields (n : Nat) (s : State) :
    (dropDiscarded n s).front.offsets = s.front.offsets := by
  simp only [dropDiscarded]
  all_goals (try simp)

@[simp] theorem acceptRecord_fields (i : Nat) (ts ct : Time) (seq : Word32) (a : BitVec 64) (s : State) :
    (acceptRecord i ts ct seq a s).ntc.consumed = s.ntc.consumed ∧
    (acceptRecord i ts ct seq a s).ntc.mask = s.ntc.mask ∧
    (acceptRecord i ts ct seq a s).ntc.lineEn = s.ntc.lineEn ∧
    (acceptRecord i ts ct seq a s).ntc.works = s.ntc.works ∧
    (acceptRecord i ts ct seq a s).ntc.status = s.ntc.status ∧
    (acceptRecord i ts ct seq a s).front.offsets = s.front.offsets ∧
    (acceptRecord i ts ct seq a s).front.discarded = s.front.discarded := by
  refine ⟨?_, ?_, ?_, ?_, ?_, ?_, ?_⟩ <;> simp only [acceptRecord]
  all_goals (repeat' split)
  all_goals (try simp)

@[simp] theorem freePlace_fields (i n : Nat) (s : State) :
    (freePlace i n s).front.offsets = s.front.offsets ∧
    (freePlace i n s).front.discarded = s.front.discarded := by
  refine ⟨?_, ?_⟩ <;> simp only [freePlace]
  all_goals (try simp)

@[simp] theorem keepRecord_fields (i n : Nat) (r : Rec) (s : State) :
    (keepRecord i n r s).front.offsets = s.front.offsets ∧
    (keepRecord i n r s).front.discarded = s.front.discarded := by
  refine ⟨?_, ?_⟩ <;> simp only [keepRecord]
  all_goals (try simp)

@[simp] theorem disposeRecord_fields (i n : Nat) (r : Rec) (s : State) :
    (disposeRecord i n r s).ntc.consumed = s.ntc.consumed ∧
    (disposeRecord i n r s).ntc.mask = s.ntc.mask ∧
    (disposeRecord i n r s).ntc.lineEn = s.ntc.lineEn ∧
    (disposeRecord i n r s).ntc.works = s.ntc.works ∧
    (disposeRecord i n r s).ntc.status = s.ntc.status ∧
    (disposeRecord i n r s).front.offsets = s.front.offsets ∧
    (disposeRecord i n r s).front.discarded = s.front.discarded ∧
    (disposeRecord i n r s).jrn.oldest = s.jrn.oldest ∧
    (disposeRecord i n r s).jrn.wrapped = s.jrn.wrapped ∧
    (disposeRecord i n r s).jrn.wholeSpan = s.jrn.wholeSpan ∧
    (disposeRecord i n r s).jrn.marks = s.jrn.marks ∧
    (disposeRecord i n r s).jrn.walk = s.jrn.walk ∧
    (disposeRecord i n r s).stager.cur = s.stager.cur := by
  refine ⟨?_, ?_, ?_, ?_, ?_, ?_, ?_, ?_, ?_, ?_, ?_, ?_, ?_⟩ <;> simp only [disposeRecord]
  all_goals (repeat' split)
  all_goals (try simp)

@[simp] theorem loadRecord_fields (i : Nat) (c : Chan) (n : Nat) (pos : Pos) (r : Ret) (s : State) :
    (loadRecord i c n pos r s).ntc.consumed = s.ntc.consumed ∧
    (loadRecord i c n pos r s).ntc.mask = s.ntc.mask ∧
    (loadRecord i c n pos r s).ntc.lineEn = s.ntc.lineEn ∧
    (loadRecord i c n pos r s).ntc.works = s.ntc.works ∧
    (loadRecord i c n pos r s).ntc.status = s.ntc.status ∧
    (loadRecord i c n pos r s).front.offsets = s.front.offsets ∧
    (loadRecord i c n pos r s).front.discarded = s.front.discarded ∧
    (loadRecord i c n pos r s).jrn.oldest = s.jrn.oldest ∧
    (loadRecord i c n pos r s).jrn.wrapped = s.jrn.wrapped ∧
    (loadRecord i c n pos r s).jrn.wholeSpan = s.jrn.wholeSpan ∧
    (loadRecord i c n pos r s).jrn.marks = s.jrn.marks ∧
    (loadRecord i c n pos r s).jrn.walk = s.jrn.walk ∧
    (loadRecord i c n pos r s).stager.cur = s.stager.cur := by
  refine ⟨?_, ?_, ?_, ?_, ?_, ?_, ?_, ?_, ?_, ?_, ?_, ?_, ?_⟩ <;> simp only [loadRecord]
  all_goals (repeat' split)
  all_goals (try simp)

@[simp] theorem looseWritten_fields (phys : ChanNo) (tok : Nat) (s : State) :
    (looseWritten phys tok s).front.offsets = s.front.offsets ∧
    (looseWritten phys tok s).front.discarded = s.front.discarded := by
  refine ⟨?_, ?_⟩ <;> simp only [looseWritten]
  all_goals (repeat' split)
  all_goals (try simp)

@[simp] theorem loseMarks_fields (old : Pos) (l : List Mark) (s : State) :
    (loseMarks old l s).ntc.consumed = s.ntc.consumed ∧
    (loseMarks old l s).ntc.mask = s.ntc.mask ∧
    (loseMarks old l s).ntc.lineEn = s.ntc.lineEn ∧
    (loseMarks old l s).ntc.works = s.ntc.works ∧
    (loseMarks old l s).ntc.status = s.ntc.status ∧
    (loseMarks old l s).jrn.head = s.jrn.head ∧
    (loseMarks old l s).jrn.oldest = s.jrn.oldest ∧
    (loseMarks old l s).jrn.wrapped = s.jrn.wrapped ∧
    (loseMarks old l s).jrn.wholeSpan = s.jrn.wholeSpan ∧
    (loseMarks old l s).jrn.geCount = s.jrn.geCount ∧
    (loseMarks old l s).jrn.geps = s.jrn.geps ∧
    (loseMarks old l s).jrn.inq = s.jrn.inq ∧
    (loseMarks old l s).jrn.wrapRead = s.jrn.wrapRead ∧
    (loseMarks old l s).jrn.walk = s.jrn.walk ∧
    (loseMarks old l s).jrn.nextTok = s.jrn.nextTok := by
  refine ⟨?_, ?_, ?_, ?_, ?_, ?_, ?_, ?_, ?_, ?_, ?_, ?_, ?_, ?_, ?_⟩
  all_goals
    induction l generalizing s with
    | nil => simp [loseMarks]
    | cons n rest ih =>
      unfold loseMarks
      split
      · simp [ih]
      · simp [ih]

@[simp] theorem overwriteOldest_fields (e : Option JEntry) (b : Bool) (s : State) :
    (overwriteOldest e b s).front.offsets = s.front.offsets ∧
    (overwriteOldest e b s).front.discarded = s.front.discarded ∧
    (overwriteOldest e b s).jrn.head = s.jrn.head ∧
    (overwriteOldest e b s).jrn.marks = s.jrn.marks ∧
    (overwriteOldest e b s).jrn.inq = s.jrn.inq ∧
    (overwriteOldest e b s).jrn.wrapRead = s.jrn.wrapRead ∧
    (overwriteOldest e b s).jrn.walk = s.jrn.walk ∧
    (overwriteOldest e b s).jrn.nextTok = s.jrn.nextTok ∧
    (overwriteOldest e b s).ntc.produced = s.ntc.produced ∧
    (overwriteOldest e b s).ntc.consumed = s.ntc.consumed ∧
    (overwriteOldest e b s).ntc.discarded = s.ntc.discarded ∧
    (overwriteOldest e b s).ntc.overflow = s.ntc.overflow ∧
    (overwriteOldest e b s).ntc.mask = s.ntc.mask ∧
    (overwriteOldest e b s).ntc.lineEn = s.ntc.lineEn ∧
    (overwriteOldest e b s).ntc.works = s.ntc.works ∧
    (overwriteOldest e b s).ntc.status = s.ntc.status := by
  refine ⟨?_, ?_, ?_, ?_, ?_, ?_, ?_, ?_, ?_, ?_, ?_, ?_, ?_, ?_, ?_, ?_⟩ <;> simp only [overwriteOldest]
  all_goals (repeat' split)
  all_goals (try simp)

@[simp] theorem wrapJournal_fields (g : Regions) (r : Ret) (s : State) :
    (wrapJournal g r s).ntc.consumed = s.ntc.consumed ∧
    (wrapJournal g r s).ntc.mask = s.ntc.mask ∧
    (wrapJournal g r s).ntc.lineEn = s.ntc.lineEn ∧
    (wrapJournal g r s).ntc.works = s.ntc.works ∧
    (wrapJournal g r s).ntc.status = s.ntc.status ∧
    (wrapJournal g r s).front.offsets = s.front.offsets ∧
    (wrapJournal g r s).front.discarded = s.front.discarded ∧
    (wrapJournal g r s).jrn.walk = s.jrn.walk ∧
    (wrapJournal g r s).jrn.nextTok = s.jrn.nextTok := by
  refine ⟨?_, ?_, ?_, ?_, ?_, ?_, ?_, ?_, ?_⟩ <;> simp only [wrapJournal]
  all_goals (repeat' split)
  all_goals (try simp)

@[simp] theorem oldestReturned_fields (g : Regions) (r : Ret) (s : State) :
    (oldestReturned g r s).ntc.consumed = s.ntc.consumed ∧
    (oldestReturned g r s).ntc.mask = s.ntc.mask ∧
    (oldestReturned g r s).ntc.lineEn = s.ntc.lineEn ∧
    (oldestReturned g r s).ntc.works = s.ntc.works ∧
    (oldestReturned g r s).ntc.status = s.ntc.status ∧
    (oldestReturned g r s).front.offsets = s.front.offsets ∧
    (oldestReturned g r s).front.discarded = s.front.discarded ∧
    (oldestReturned g r s).jrn.walk = s.jrn.walk ∧
    (oldestReturned g r s).jrn.nextTok = s.jrn.nextTok := by
  unfold oldestReturned stopWrap
  split <;> simp

@[simp] theorem nextItem_fields (s : State) :
    (nextItem  s).jrn.oldest = s.jrn.oldest ∧
    (nextItem  s).jrn.wrapped = s.jrn.wrapped ∧
    (nextItem  s).jrn.wholeSpan = s.jrn.wholeSpan ∧
    (nextItem  s).jrn.marks = s.jrn.marks ∧
    (nextItem  s).jrn.walk = s.jrn.walk ∧
    (nextItem  s).jrn.nextTok = s.jrn.nextTok ∧
    (nextItem  s).commit.flag = s.commit.flag ∧
    (nextItem  s).commit.watches = s.commit.watches := by
  refine ⟨?_, ?_, ?_, ?_, ?_, ?_, ?_, ?_⟩ <;> simp only [nextItem]
  all_goals (repeat' split)
  all_goals (try simp)

@[simp] theorem beginCommit_fields (s : State) :
    (beginCommit  s).jrn.oldest = s.jrn.oldest ∧
    (beginCommit  s).jrn.wrapped = s.jrn.wrapped ∧
    (beginCommit  s).jrn.wholeSpan = s.jrn.wholeSpan ∧
    (beginCommit  s).jrn.marks = s.jrn.marks ∧
    (beginCommit  s).jrn.walk = s.jrn.walk ∧
    (beginCommit  s).jrn.nextTok = s.jrn.nextTok ∧
    (beginCommit  s).commit.watches = s.commit.watches := by
  refine ⟨?_, ?_, ?_, ?_, ?_, ?_, ?_⟩ <;> simp only [beginCommit]
  all_goals (try simp)

@[simp] theorem commitWord_fields (p : PointNo) (a b : PointWord) (s : State) :
    (commitWord p a b s).commit.flag = s.commit.flag ∧
    (commitWord p a b s).commit.watches = s.commit.watches := by
  refine ⟨?_, ?_⟩ <;> simp only [commitWord]
  all_goals (try simp)

@[simp] theorem handGroup_fields (e : JEntry) (s : State) :
    (handGroup e s).jrn.oldest = s.jrn.oldest ∧
    (handGroup e s).jrn.wrapped = s.jrn.wrapped ∧
    (handGroup e s).jrn.wholeSpan = s.jrn.wholeSpan ∧
    (handGroup e s).jrn.marks = s.jrn.marks ∧
    (handGroup e s).jrn.walk = s.jrn.walk ∧
    (handGroup e s).jrn.nextTok = s.jrn.nextTok := by
  refine ⟨?_, ?_, ?_, ?_, ?_, ?_⟩ <;> simp only [handGroup]
  all_goals (try simp)

@[simp] theorem endOnce_fields (it : Item) (p : PointNo) (s : State) :
    (endOnce it p s).ntc.consumed = s.ntc.consumed ∧
    (endOnce it p s).ntc.mask = s.ntc.mask ∧
    (endOnce it p s).ntc.lineEn = s.ntc.lineEn ∧
    (endOnce it p s).ntc.works = s.ntc.works ∧
    (endOnce it p s).ntc.status = s.ntc.status := by
  refine ⟨?_, ?_, ?_, ?_, ?_⟩ <;> simp only [endOnce]
  all_goals (repeat' split)
  all_goals (try simp)

@[simp] theorem applyItem_fields (it : Item) (p : PointNo) (v : Word32) (q : BitVec 8) (u d : Bool) (a : Option (BitVec 64)) (old : PointWord) (s : State) :
    (applyItem it p v q u d a old s).ntc.consumed = s.ntc.consumed ∧
    (applyItem it p v q u d a old s).ntc.mask = s.ntc.mask ∧
    (applyItem it p v q u d a old s).ntc.lineEn = s.ntc.lineEn ∧
    (applyItem it p v q u d a old s).ntc.works = s.ntc.works ∧
    (applyItem it p v q u d a old s).ntc.status = s.ntc.status ∧
    (applyItem it p v q u d a old s).jrn.oldest = s.jrn.oldest ∧
    (applyItem it p v q u d a old s).jrn.wrapped = s.jrn.wrapped ∧
    (applyItem it p v q u d a old s).jrn.wholeSpan = s.jrn.wholeSpan ∧
    (applyItem it p v q u d a old s).jrn.marks = s.jrn.marks ∧
    (applyItem it p v q u d a old s).jrn.walk = s.jrn.walk ∧
    (applyItem it p v q u d a old s).jrn.nextTok = s.jrn.nextTok ∧
    (applyItem it p v q u d a old s).commit.flag = s.commit.flag ∧
    (applyItem it p v q u d a old s).commit.watches = s.commit.watches := by
  refine ⟨?_, ?_, ?_, ?_, ?_, ?_, ?_, ?_, ?_, ?_, ?_, ?_, ?_⟩ <;> simp only [applyItem]
  all_goals (repeat' split)
  all_goals (try simp)

@[simp] theorem commitRecord_fields (it : Item) (p : PointNo) (v : Word32) (q : BitVec 8) (a : BitVec 64) (u : Bool) (old : PointWord) (s : State) :
    (commitRecord it p v q a u old s).ntc.consumed = s.ntc.consumed ∧
    (commitRecord it p v q a u old s).ntc.mask = s.ntc.mask ∧
    (commitRecord it p v q a u old s).ntc.lineEn = s.ntc.lineEn ∧
    (commitRecord it p v q a u old s).ntc.works = s.ntc.works ∧
    (commitRecord it p v q a u old s).ntc.status = s.ntc.status ∧
    (commitRecord it p v q a u old s).jrn.oldest = s.jrn.oldest ∧
    (commitRecord it p v q a u old s).jrn.wrapped = s.jrn.wrapped ∧
    (commitRecord it p v q a u old s).jrn.wholeSpan = s.jrn.wholeSpan ∧
    (commitRecord it p v q a u old s).jrn.marks = s.jrn.marks ∧
    (commitRecord it p v q a u old s).jrn.walk = s.jrn.walk ∧
    (commitRecord it p v q a u old s).jrn.nextTok = s.jrn.nextTok ∧
    (commitRecord it p v q a u old s).commit.flag = s.commit.flag ∧
    (commitRecord it p v q a u old s).commit.watches = s.commit.watches := by
  refine ⟨?_, ?_, ?_, ?_, ?_, ?_, ?_, ?_, ?_, ?_, ?_, ?_, ?_⟩ <;> simp only [commitRecord]
  all_goals (repeat' split)
  all_goals (try simp)

@[simp] theorem commitChatter_fields (it : Item) (p : PointNo) (h : HeldItem) (rel : Time) (old : PointWord) (s : State) :
    (commitChatter it p h rel old s).jrn.oldest = s.jrn.oldest ∧
    (commitChatter it p h rel old s).jrn.wrapped = s.jrn.wrapped ∧
    (commitChatter it p h rel old s).jrn.wholeSpan = s.jrn.wholeSpan ∧
    (commitChatter it p h rel old s).jrn.marks = s.jrn.marks ∧
    (commitChatter it p h rel old s).jrn.walk = s.jrn.walk ∧
    (commitChatter it p h rel old s).jrn.nextTok = s.jrn.nextTok ∧
    (commitChatter it p h rel old s).commit.flag = s.commit.flag ∧
    (commitChatter it p h rel old s).commit.watches = s.commit.watches := by
  refine ⟨?_, ?_, ?_, ?_, ?_, ?_, ?_, ?_⟩ <;> simp only [commitChatter]
  all_goals (try simp)

@[simp] theorem commitMarker_fields (it : Item) (p : PointNo) (v : Word32) (a : BitVec 64) (s : State) :
    (commitMarker it p v a s).ntc.consumed = s.ntc.consumed ∧
    (commitMarker it p v a s).ntc.mask = s.ntc.mask ∧
    (commitMarker it p v a s).ntc.lineEn = s.ntc.lineEn ∧
    (commitMarker it p v a s).ntc.works = s.ntc.works ∧
    (commitMarker it p v a s).ntc.status = s.ntc.status ∧
    (commitMarker it p v a s).jrn.oldest = s.jrn.oldest ∧
    (commitMarker it p v a s).jrn.wrapped = s.jrn.wrapped ∧
    (commitMarker it p v a s).jrn.wholeSpan = s.jrn.wholeSpan ∧
    (commitMarker it p v a s).jrn.marks = s.jrn.marks ∧
    (commitMarker it p v a s).jrn.walk = s.jrn.walk ∧
    (commitMarker it p v a s).jrn.nextTok = s.jrn.nextTok := by
  refine ⟨?_, ?_, ?_, ?_, ?_, ?_, ?_, ?_, ?_, ?_, ?_⟩ <;> simp only [commitMarker]
  all_goals (try simp)

@[simp] theorem commitOne_fields (it : Item) (old : PointWord) (s : State) :
    (commitOne it old s).ntc.consumed = s.ntc.consumed ∧
    (commitOne it old s).ntc.mask = s.ntc.mask ∧
    (commitOne it old s).ntc.lineEn = s.ntc.lineEn ∧
    (commitOne it old s).ntc.works = s.ntc.works ∧
    (commitOne it old s).ntc.status = s.ntc.status ∧
    (commitOne it old s).jrn.oldest = s.jrn.oldest ∧
    (commitOne it old s).jrn.wrapped = s.jrn.wrapped ∧
    (commitOne it old s).jrn.wholeSpan = s.jrn.wholeSpan ∧
    (commitOne it old s).jrn.marks = s.jrn.marks ∧
    (commitOne it old s).jrn.walk = s.jrn.walk ∧
    (commitOne it old s).jrn.nextTok = s.jrn.nextTok ∧
    (commitOne it old s).commit.flag = s.commit.flag ∧
    (commitOne it old s).commit.watches = s.commit.watches := by
  refine ⟨?_, ?_, ?_, ?_, ?_, ?_, ?_, ?_, ?_, ?_, ?_, ?_, ?_⟩ <;> simp only [commitOne]
  all_goals (repeat' split)
  all_goals (try simp)

@[simp] theorem clearReading_fields (f : Flight) (s : State) :
    (clearReading f s).commit.flag = s.commit.flag ∧
    (clearReading f s).commit.watches = s.commit.watches := by
  refine ⟨?_, ?_⟩ <;> simp only [clearReading]
  all_goals (repeat' split)
  all_goals (try simp)

@[simp] theorem takeItem_fields (f : Flight) (it : Item) (old : PointWord) (s : State) :
    (takeItem f it old s).ntc.consumed = s.ntc.consumed ∧
    (takeItem f it old s).ntc.mask = s.ntc.mask ∧
    (takeItem f it old s).ntc.lineEn = s.ntc.lineEn ∧
    (takeItem f it old s).ntc.works = s.ntc.works ∧
    (takeItem f it old s).ntc.status = s.ntc.status ∧
    (takeItem f it old s).jrn.oldest = s.jrn.oldest ∧
    (takeItem f it old s).jrn.wrapped = s.jrn.wrapped ∧
    (takeItem f it old s).jrn.wholeSpan = s.jrn.wholeSpan ∧
    (takeItem f it old s).jrn.marks = s.jrn.marks ∧
    (takeItem f it old s).jrn.walk = s.jrn.walk ∧
    (takeItem f it old s).jrn.nextTok = s.jrn.nextTok ∧
    (takeItem f it old s).commit.flag = s.commit.flag ∧
    (takeItem f it old s).commit.watches = s.commit.watches := by
  refine ⟨?_, ?_, ?_, ?_, ?_, ?_, ?_, ?_, ?_, ?_, ?_, ?_, ?_⟩ <;> simp only [takeItem]
  all_goals (try simp)

@[simp] theorem postHit_fields (f : Flight) (g : Word32) (s : State) (k : Nat) :
    (postHit f g s k).ntc.consumed = s.ntc.consumed ∧
    (postHit f g s k).ntc.mask = s.ntc.mask ∧
    (postHit f g s k).ntc.lineEn = s.ntc.lineEn ∧
    (postHit f g s k).ntc.works = s.ntc.works ∧
    (postHit f g s k).ntc.status = s.ntc.status := by
  refine ⟨?_, ?_, ?_, ?_, ?_⟩ <;> simp only [postHit]
  all_goals (repeat' split)
  all_goals (try simp)

@[simp] theorem countStop_fields (s : State) :
    ((countStop s).1).ntc.consumed = s.ntc.consumed ∧
    ((countStop s).1).ntc.mask = s.ntc.mask ∧
    ((countStop s).1).ntc.lineEn = s.ntc.lineEn ∧
    ((countStop s).1).ntc.works = s.ntc.works ∧
    ((countStop s).1).ntc.status = s.ntc.status ∧
    ((countStop s).1).lane.lane = s.lane.lane ∧
    ((countStop s).1).lane.resume = s.lane.resume ∧
    ((countStop s).1).lane.runMode = s.lane.runMode ∧
    ((countStop s).1).lane.holds = s.lane.holds ∧
    ((countStop s).1).lane.c = s.lane.c ∧
    ((countStop s).1).lane.r = s.lane.r ∧
    ((countStop s).1).lane.f = s.lane.f ∧
    ((countStop s).1).lane.group = s.lane.group ∧
    ((countStop s).1).lane.pace = s.lane.pace ∧
    ((countStop s).1).lane.acc = s.lane.acc ∧
    ((countStop s).1).lane.stopTime = s.lane.stopTime ∧
    ((countStop s).1).lane.reload = s.lane.reload ∧
    ((countStop s).1).lane.steps = s.lane.steps ∧
    ((countStop s).1).lane.stepped = s.lane.stepped ∧
    ((countStop s).1).lane.pend = s.lane.pend ∧
    ((countStop s).1).lane.fault = s.lane.fault ∧
    ((countStop s).1).lane.faultAddr = s.lane.faultAddr := by
  refine ⟨?_, ?_, ?_, ?_, ?_, ?_, ?_, ?_, ?_, ?_, ?_, ?_, ?_, ?_, ?_, ?_, ?_, ?_, ?_, ?_, ?_, ?_⟩ <;> simp only [countStop]
  all_goals (repeat' split)
  all_goals (try simp)

@[simp] theorem countStep_fields (s : State) :
    ((countStep s).1).lane.lane = s.lane.lane ∧
    ((countStep s).1).lane.resume = s.lane.resume ∧
    ((countStep s).1).lane.runMode = s.lane.runMode ∧
    ((countStep s).1).lane.holds = s.lane.holds ∧
    ((countStep s).1).lane.c = s.lane.c ∧
    ((countStep s).1).lane.r = s.lane.r ∧
    ((countStep s).1).lane.f = s.lane.f ∧
    ((countStep s).1).lane.group = s.lane.group ∧
    ((countStep s).1).lane.pace = s.lane.pace ∧
    ((countStep s).1).lane.acc = s.lane.acc ∧
    ((countStep s).1).lane.stopTime = s.lane.stopTime ∧
    ((countStep s).1).lane.stopCount = s.lane.stopCount ∧
    ((countStep s).1).lane.reload = s.lane.reload ∧
    ((countStep s).1).lane.pend = s.lane.pend ∧
    ((countStep s).1).lane.fault = s.lane.fault ∧
    ((countStep s).1).lane.faultAddr = s.lane.faultAddr := by
  refine ⟨?_, ?_, ?_, ?_, ?_, ?_, ?_, ?_, ?_, ?_, ?_, ?_, ?_, ?_, ?_, ?_⟩ <;> simp only [countStep]
  all_goals (repeat' split)
  all_goals (try simp)

@[simp] theorem stepDone_fields (s : State) :
    (stepDone  s).ntc.consumed = s.ntc.consumed ∧
    (stepDone  s).ntc.mask = s.ntc.mask ∧
    (stepDone  s).ntc.lineEn = s.ntc.lineEn ∧
    (stepDone  s).ntc.works = s.ntc.works ∧
    (stepDone  s).ntc.status = s.ntc.status := by
  refine ⟨?_, ?_, ?_, ?_, ?_⟩ <;> simp only [stepDone]
  all_goals (try simp)

@[simp] theorem decideBoundary_fields (a b c d : Bool) (s : State) :
    (decideBoundary a b c d s).ntc.consumed = s.ntc.consumed ∧
    (decideBoundary a b c d s).ntc.mask = s.ntc.mask ∧
    (decideBoundary a b c d s).ntc.lineEn = s.ntc.lineEn ∧
    (decideBoundary a b c d s).ntc.works = s.ntc.works ∧
    (decideBoundary a b c d s).ntc.status = s.ntc.status := by
  refine ⟨?_, ?_, ?_, ?_, ?_⟩ <;> simp only [decideBoundary]
  all_goals (repeat' split)
  all_goals (try simp)

@[simp] theorem handleBoundary_fields (w : Bool) (s : State) :
    (handleBoundary w s).ntc.consumed = s.ntc.consumed ∧
    (handleBoundary w s).ntc.mask = s.ntc.mask ∧
    (handleBoundary w s).ntc.lineEn = s.ntc.lineEn ∧
    (handleBoundary w s).ntc.works = s.ntc.works ∧
    (handleBoundary w s).ntc.status = s.ntc.status ∧
    (handleBoundary w s).front.discarded = s.front.discarded ∧
    (handleBoundary w s).jrn.oldest = s.jrn.oldest ∧
    (handleBoundary w s).jrn.wrapped = s.jrn.wrapped ∧
    (handleBoundary w s).jrn.wholeSpan = s.jrn.wholeSpan ∧
    (handleBoundary w s).jrn.marks = s.jrn.marks ∧
    (handleBoundary w s).jrn.walk = s.jrn.walk ∧
    (handleBoundary w s).stager.cur = s.stager.cur := by
  refine ⟨?_, ?_, ?_, ?_, ?_, ?_, ?_, ?_, ?_, ?_, ?_, ?_⟩ <;> simp only [handleBoundary]
  all_goals (try simp)

@[simp] theorem advanceGroup_fields (f : Flight) (s : State) :
    (advanceGroup f s).ntc.consumed = s.ntc.consumed ∧
    (advanceGroup f s).ntc.mask = s.ntc.mask ∧
    (advanceGroup f s).ntc.lineEn = s.ntc.lineEn ∧
    (advanceGroup f s).ntc.works = s.ntc.works ∧
    (advanceGroup f s).ntc.status = s.ntc.status ∧
    (advanceGroup f s).front.offsets = s.front.offsets ∧
    (advanceGroup f s).front.discarded = s.front.discarded ∧
    (advanceGroup f s).jrn.oldest = s.jrn.oldest ∧
    (advanceGroup f s).jrn.wrapped = s.jrn.wrapped ∧
    (advanceGroup f s).jrn.wholeSpan = s.jrn.wholeSpan ∧
    (advanceGroup f s).jrn.marks = s.jrn.marks ∧
    (advanceGroup f s).jrn.walk = s.jrn.walk := by
  refine ⟨?_, ?_, ?_, ?_, ?_, ?_, ?_, ?_, ?_, ?_, ?_, ?_⟩ <;> simp only [advanceGroup]
  all_goals (repeat' split)
  all_goals (try simp)

@[simp] theorem clearFlight_fields (s : State) :
    (clearFlight  s).commit.watches = s.commit.watches := by
  simp only [clearFlight]
  all_goals (try simp)

@[simp] theorem commitBoundary_fields (f : Flight) (s : State) :
    (commitBoundary f s).ntc.consumed = s.ntc.consumed ∧
    (commitBoundary f s).ntc.mask = s.ntc.mask ∧
    (commitBoundary f s).ntc.lineEn = s.ntc.lineEn ∧
    (commitBoundary f s).ntc.works = s.ntc.works ∧
    (commitBoundary f s).ntc.status = s.ntc.status ∧
    (commitBoundary f s).front.discarded = s.front.discarded ∧
    (commitBoundary f s).jrn.oldest = s.jrn.oldest ∧
    (commitBoundary f s).jrn.wrapped = s.jrn.wrapped ∧
    (commitBoundary f s).jrn.wholeSpan = s.jrn.wholeSpan ∧
    (commitBoundary f s).jrn.marks = s.jrn.marks ∧
    (commitBoundary f s).jrn.walk = s.jrn.walk ∧
    (commitBoundary f s).commit.watches = s.commit.watches ∧
    (commitBoundary f s).merge.dwell = s.merge.dwell ∧
    (commitBoundary f s).merge.limit = s.merge.limit ∧
    (commitBoundary f s).merge.quantum = s.merge.quantum ∧
    (commitBoundary f s).merge.window = s.merge.window ∧
    (commitBoundary f s).merge.start = s.merge.start ∧
    (commitBoundary f s).merge.filter = s.merge.filter := by
  refine ⟨?_, ?_, ?_, ?_, ?_, ?_, ?_, ?_, ?_, ?_, ?_, ?_, ?_, ?_, ?_, ?_, ?_, ?_⟩
  · have h := foldl_keeps (fun u : State => u.ntc.consumed) (postHit f s.lane.group) (fun _ _ => by simp)
    simp only [commitBoundary]
    all_goals simp [h]
  · have h := foldl_keeps (fun u : State => u.ntc.mask) (postHit f s.lane.group) (fun _ _ => by simp)
    simp only [commitBoundary]
    all_goals simp [h]
  · have h := foldl_keeps (fun u : State => u.ntc.lineEn) (postHit f s.lane.group) (fun _ _ => by simp)
    simp only [commitBoundary]
    all_goals simp [h]
  · have h := foldl_keeps (fun u : State => u.ntc.works) (postHit f s.lane.group) (fun _ _ => by simp)
    simp only [commitBoundary]
    all_goals simp [h]
  · have h := foldl_keeps (fun u : State => u.ntc.status) (postHit f s.lane.group) (fun _ _ => by simp)
    simp only [commitBoundary]
    all_goals simp [h]
  · have h := foldl_keeps (fun u : State => u.front.discarded) (postHit f s.lane.group) (fun _ _ => by simp)
    simp only [commitBoundary]
    all_goals simp [h]
  · have h := foldl_keeps (fun u : State => u.jrn.oldest) (postHit f s.lane.group) (fun _ _ => by simp)
    simp only [commitBoundary]
    all_goals simp [h]
  · have h := foldl_keeps (fun u : State => u.jrn.wrapped) (postHit f s.lane.group) (fun _ _ => by simp)
    simp only [commitBoundary]
    all_goals simp [h]
  · have h := foldl_keeps (fun u : State => u.jrn.wholeSpan) (postHit f s.lane.group) (fun _ _ => by simp)
    simp only [commitBoundary]
    all_goals simp [h]
  · have h := foldl_keeps (fun u : State => u.jrn.marks) (postHit f s.lane.group) (fun _ _ => by simp)
    simp only [commitBoundary]
    all_goals simp [h]
  · have h := foldl_keeps (fun u : State => u.jrn.walk) (postHit f s.lane.group) (fun _ _ => by simp)
    simp only [commitBoundary]
    all_goals simp [h]
  · have h := foldl_keeps (fun u : State => u.commit.watches) (postHit f s.lane.group) (fun _ _ => by simp)
    simp only [commitBoundary]
    all_goals simp [h]
  · have h := foldl_keeps (fun u : State => u.merge.dwell) (postHit f s.lane.group) (fun _ _ => by simp)
    simp only [commitBoundary]
    all_goals simp [h]
  · have h := foldl_keeps (fun u : State => u.merge.limit) (postHit f s.lane.group) (fun _ _ => by simp)
    simp only [commitBoundary]
    all_goals simp [h]
  · have h := foldl_keeps (fun u : State => u.merge.quantum) (postHit f s.lane.group) (fun _ _ => by simp)
    simp only [commitBoundary]
    all_goals simp [h]
  · have h := foldl_keeps (fun u : State => u.merge.window) (postHit f s.lane.group) (fun _ _ => by simp)
    simp only [commitBoundary]
    all_goals simp [h]
  · have h := foldl_keeps (fun u : State => u.merge.start) (postHit f s.lane.group) (fun _ _ => by simp)
    simp only [commitBoundary]
    all_goals simp [h]
  · have h := foldl_keeps (fun u : State => u.merge.filter) (postHit f s.lane.group) (fun _ _ => by simp)
    simp only [commitBoundary]
    all_goals simp [h]

@[simp] theorem stopNotices_fields (s : State) :
    (stopNotices  s).ntc.produced = s.ntc.produced ∧
    (stopNotices  s).ntc.consumed = s.ntc.consumed ∧
    (stopNotices  s).ntc.mask = s.ntc.mask ∧
    (stopNotices  s).ntc.lineEn = s.ntc.lineEn ∧
    (stopNotices  s).ntc.status = s.ntc.status := by
  refine ⟨?_, ?_, ?_, ?_, ?_⟩ <;> simp only [stopNotices]
  all_goals (try simp)

@[simp] theorem failCapture_fields (s : State) :
    (failCapture  s).ntc.produced = s.ntc.produced ∧
    (failCapture  s).ntc.consumed = s.ntc.consumed ∧
    (failCapture  s).ntc.discarded = s.ntc.discarded ∧
    (failCapture  s).ntc.overflow = s.ntc.overflow ∧
    (failCapture  s).ntc.mask = s.ntc.mask ∧
    (failCapture  s).ntc.lineEn = s.ntc.lineEn ∧
    (failCapture  s).ntc.works = s.ntc.works ∧
    (failCapture  s).ntc.status = s.ntc.status := by
  refine ⟨?_, ?_, ?_, ?_, ?_, ?_, ?_, ?_⟩ <;> simp only [failCapture]
  all_goals (try simp)

@[simp] theorem ownError_fields (r : Ret) (c : FaultCode) (s : State) :
    (ownError r c s).ntc.consumed = s.ntc.consumed ∧
    (ownError r c s).ntc.mask = s.ntc.mask ∧
    (ownError r c s).ntc.lineEn = s.ntc.lineEn ∧
    (ownError r c s).ntc.status = s.ntc.status ∧
    (ownError r c s).front.offsets = s.front.offsets ∧
    (ownError r c s).merge.dwell = s.merge.dwell ∧
    (ownError r c s).merge.limit = s.merge.limit ∧
    (ownError r c s).merge.quantum = s.merge.quantum ∧
    (ownError r c s).merge.window = s.merge.window ∧
    (ownError r c s).merge.start = s.merge.start ∧
    (ownError r c s).commit.flag = s.commit.flag ∧
    (ownError r c s).commit.watches = s.commit.watches ∧
    (ownError r c s).jrn.head = s.jrn.head ∧
    (ownError r c s).jrn.oldest = s.jrn.oldest ∧
    (ownError r c s).jrn.wrapped = s.jrn.wrapped ∧
    (ownError r c s).jrn.wholeSpan = s.jrn.wholeSpan ∧
    (ownError r c s).jrn.geCount = s.jrn.geCount ∧
    (ownError r c s).jrn.geps = s.jrn.geps ∧
    (ownError r c s).jrn.marks = s.jrn.marks ∧
    (ownError r c s).jrn.inq = s.jrn.inq ∧
    (ownError r c s).jrn.wrapRead = s.jrn.wrapRead ∧
    (ownError r c s).jrn.nextTok = s.jrn.nextTok := by
  refine ⟨?_, ?_, ?_, ?_, ?_, ?_, ?_, ?_, ?_, ?_, ?_, ?_, ?_, ?_, ?_, ?_, ?_, ?_, ?_, ?_, ?_, ?_⟩ <;> simp only [ownError]
  all_goals (repeat' split)
  all_goals (try simp)

@[simp] theorem passMarks_fields (s : State) :
    (passMarks  s).jrn.head = s.jrn.head ∧
    (passMarks  s).jrn.oldest = s.jrn.oldest ∧
    (passMarks  s).jrn.wrapped = s.jrn.wrapped ∧
    (passMarks  s).jrn.wholeSpan = s.jrn.wholeSpan ∧
    (passMarks  s).jrn.geCount = s.jrn.geCount ∧
    (passMarks  s).jrn.geps = s.jrn.geps ∧
    (passMarks  s).jrn.inq = s.jrn.inq ∧
    (passMarks  s).jrn.wrapRead = s.jrn.wrapRead ∧
    (passMarks  s).jrn.nextTok = s.jrn.nextTok ∧
    (passMarks  s).ntc.produced = s.ntc.produced ∧
    (passMarks  s).ntc.consumed = s.ntc.consumed ∧
    (passMarks  s).ntc.discarded = s.ntc.discarded ∧
    (passMarks  s).ntc.overflow = s.ntc.overflow ∧
    (passMarks  s).ntc.mask = s.ntc.mask ∧
    (passMarks  s).ntc.lineEn = s.ntc.lineEn ∧
    (passMarks  s).ntc.works = s.ntc.works ∧
    (passMarks  s).ntc.status = s.ntc.status := by
  refine ⟨?_, ?_, ?_, ?_, ?_, ?_, ?_, ?_, ?_, ?_, ?_, ?_, ?_, ?_, ?_, ?_, ?_⟩ <;> simp only [passMarks]
  all_goals (repeat' split)
  all_goals (try simp)

@[simp] theorem resumeChannels_fields (s : State) :
    (resumeChannels  s).ntc.consumed = s.ntc.consumed ∧
    (resumeChannels  s).ntc.mask = s.ntc.mask ∧
    (resumeChannels  s).ntc.lineEn = s.ntc.lineEn ∧
    (resumeChannels  s).ntc.works = s.ntc.works ∧
    (resumeChannels  s).ntc.status = s.ntc.status ∧
    (resumeChannels  s).front.offsets = s.front.offsets ∧
    (resumeChannels  s).front.discarded = s.front.discarded := by
  refine ⟨?_, ?_, ?_, ?_, ?_, ?_, ?_⟩ <;> simp only [resumeChannels]
  all_goals (try simp)

@[simp] theorem postRewindEnded_fields (w : Walk) (x : RewindOutcome) (s : State) :
    (postRewindEnded w x s).ntc.consumed = s.ntc.consumed ∧
    (postRewindEnded w x s).ntc.mask = s.ntc.mask ∧
    (postRewindEnded w x s).ntc.lineEn = s.ntc.lineEn ∧
    (postRewindEnded w x s).ntc.works = s.ntc.works ∧
    (postRewindEnded w x s).ntc.status = s.ntc.status := by
  refine ⟨?_, ?_, ?_, ?_, ?_⟩ <;> simp only [postRewindEnded]
  all_goals (try simp)

@[simp] theorem finishRewind_fields (w : Walk) (x : RewindOutcome) (s : State) :
    (finishRewind w x s).ntc.consumed = s.ntc.consumed ∧
    (finishRewind w x s).ntc.mask = s.ntc.mask ∧
    (finishRewind w x s).ntc.lineEn = s.ntc.lineEn ∧
    (finishRewind w x s).ntc.works = s.ntc.works ∧
    (finishRewind w x s).ntc.status = s.ntc.status ∧
    (finishRewind w x s).front.discarded = s.front.discarded ∧
    (finishRewind w x s).merge.dwell = s.merge.dwell ∧
    (finishRewind w x s).merge.limit = s.merge.limit ∧
    (finishRewind w x s).merge.quantum = s.merge.quantum ∧
    (finishRewind w x s).merge.window = s.merge.window ∧
    (finishRewind w x s).merge.start = s.merge.start ∧
    (finishRewind w x s).merge.filter = s.merge.filter ∧
    (finishRewind w x s).jrn.oldest = s.jrn.oldest ∧
    (finishRewind w x s).jrn.wrapped = s.jrn.wrapped ∧
    (finishRewind w x s).jrn.wholeSpan = s.jrn.wholeSpan ∧
    (finishRewind w x s).jrn.marks = s.jrn.marks ∧
    (finishRewind w x s).stager.cur = s.stager.cur := by
  refine ⟨?_, ?_, ?_, ?_, ?_, ?_, ?_, ?_, ?_, ?_, ?_, ?_, ?_, ?_, ?_, ?_, ?_⟩ <;> simp only [finishRewind]
  all_goals (try simp)

@[simp] theorem flushHeads_fields (s : State) :
    (flushHeads  s).front.offsets = s.front.offsets := by
  simp only [flushHeads]
  all_goals (try simp)

@[simp] theorem flushChannels_fields (s : State) :
    (flushChannels s).ntc.consumed = s.ntc.consumed ∧
    (flushChannels s).ntc.mask = s.ntc.mask ∧
    (flushChannels s).ntc.lineEn = s.ntc.lineEn ∧
    (flushChannels s).ntc.works = s.ntc.works ∧
    (flushChannels s).ntc.status = s.ntc.status ∧
    (flushChannels s).front.offsets = s.front.offsets := by
  refine ⟨?_, ?_, ?_, ?_, ?_, ?_⟩
  · have h := foldl_keeps (fun u : State => u.ntc.consumed) recomputeChan (fun _ _ => by simp)
    simp [flushChannels, h]
  · have h := foldl_keeps (fun u : State => u.ntc.mask) recomputeChan (fun _ _ => by simp)
    simp [flushChannels, h]
  · have h := foldl_keeps (fun u : State => u.ntc.lineEn) recomputeChan (fun _ _ => by simp)
    simp [flushChannels, h]
  · have h := foldl_keeps (fun u : State => u.ntc.works) recomputeChan (fun _ _ => by simp)
    simp [flushChannels, h]
  · have h := foldl_keeps (fun u : State => u.ntc.status) recomputeChan (fun _ _ => by simp)
    simp [flushChannels, h]
  · have h := foldl_keeps (fun u : State => u.front.offsets) recomputeChan (fun _ _ => by simp)
    simp [flushChannels, h]

@[simp] theorem walkOn_fields (s : State) :
    (walkOn  s).ntc.consumed = s.ntc.consumed ∧
    (walkOn  s).ntc.mask = s.ntc.mask ∧
    (walkOn  s).ntc.lineEn = s.ntc.lineEn ∧
    (walkOn  s).ntc.works = s.ntc.works ∧
    (walkOn  s).ntc.status = s.ntc.status ∧
    (walkOn  s).front.discarded = s.front.discarded ∧
    (walkOn  s).merge.dwell = s.merge.dwell ∧
    (walkOn  s).merge.limit = s.merge.limit ∧
    (walkOn  s).merge.quantum = s.merge.quantum ∧
    (walkOn  s).merge.window = s.merge.window ∧
    (walkOn  s).merge.start = s.merge.start ∧
    (walkOn  s).merge.filter = s.merge.filter ∧
    (walkOn  s).jrn.oldest = s.jrn.oldest ∧
    (walkOn  s).jrn.wrapped = s.jrn.wrapped ∧
    (walkOn  s).jrn.wholeSpan = s.jrn.wholeSpan ∧
    (walkOn  s).jrn.marks = s.jrn.marks ∧
    (walkOn  s).stager.cur = s.stager.cur := by
  refine ⟨?_, ?_, ?_, ?_, ?_, ?_, ?_, ?_, ?_, ?_, ?_, ?_, ?_, ?_, ?_, ?_, ?_⟩ <;> simp only [walkOn]
  all_goals (repeat' split)
  all_goals (try simp)

@[simp] theorem startRewind_fields (w : Walk) (s : State) :
    (startRewind w s).ntc.consumed = s.ntc.consumed ∧
    (startRewind w s).ntc.mask = s.ntc.mask ∧
    (startRewind w s).ntc.lineEn = s.ntc.lineEn ∧
    (startRewind w s).ntc.works = s.ntc.works ∧
    (startRewind w s).ntc.status = s.ntc.status ∧
    (startRewind w s).merge.dwell = s.merge.dwell ∧
    (startRewind w s).merge.limit = s.merge.limit ∧
    (startRewind w s).merge.quantum = s.merge.quantum ∧
    (startRewind w s).merge.window = s.merge.window ∧
    (startRewind w s).merge.start = s.merge.start ∧
    (startRewind w s).merge.filter = s.merge.filter ∧
    (startRewind w s).jrn.oldest = s.jrn.oldest ∧
    (startRewind w s).jrn.wrapped = s.jrn.wrapped ∧
    (startRewind w s).jrn.wholeSpan = s.jrn.wholeSpan ∧
    (startRewind w s).stager.cur = s.stager.cur := by
  refine ⟨?_, ?_, ?_, ?_, ?_, ?_, ?_, ?_, ?_, ?_, ?_, ?_, ?_, ?_, ?_⟩ <;> simp only [startRewind]
  all_goals (repeat' split)
  all_goals (try simp)

@[simp] theorem readEntry_fields (s : State) :
    (readEntry  s).jrn.head = s.jrn.head ∧
    (readEntry  s).jrn.oldest = s.jrn.oldest ∧
    (readEntry  s).jrn.wrapped = s.jrn.wrapped ∧
    (readEntry  s).jrn.wholeSpan = s.jrn.wholeSpan ∧
    (readEntry  s).jrn.geCount = s.jrn.geCount ∧
    (readEntry  s).jrn.geps = s.jrn.geps ∧
    (readEntry  s).jrn.marks = s.jrn.marks ∧
    (readEntry  s).jrn.inq = s.jrn.inq ∧
    (readEntry  s).jrn.wrapRead = s.jrn.wrapRead ∧
    (readEntry  s).jrn.nextTok = s.jrn.nextTok := by
  refine ⟨?_, ?_, ?_, ?_, ?_, ?_, ?_, ?_, ?_, ?_⟩ <;> simp only [readEntry]
  all_goals (try simp)

@[simp] theorem beginStep_fields (s : State) :
    (beginStep  s).jrn.head = s.jrn.head ∧
    (beginStep  s).jrn.oldest = s.jrn.oldest ∧
    (beginStep  s).jrn.wrapped = s.jrn.wrapped ∧
    (beginStep  s).jrn.wholeSpan = s.jrn.wholeSpan ∧
    (beginStep  s).jrn.geCount = s.jrn.geCount ∧
    (beginStep  s).jrn.geps = s.jrn.geps ∧
    (beginStep  s).jrn.marks = s.jrn.marks ∧
    (beginStep  s).jrn.inq = s.jrn.inq ∧
    (beginStep  s).jrn.wrapRead = s.jrn.wrapRead ∧
    (beginStep  s).jrn.nextTok = s.jrn.nextTok ∧
    (beginStep  s).commit.fly = s.commit.fly ∧
    (beginStep  s).commit.watches = s.commit.watches := by
  refine ⟨?_, ?_, ?_, ?_, ?_, ?_, ?_, ?_, ?_, ?_, ?_, ?_⟩ <;> simp only [beginStep]
  all_goals (try simp)

@[simp] theorem undoWord_fields (p : PointNo) (a b : PointWord) (s : State) :
    (undoWord p a b s).jrn.head = s.jrn.head ∧
    (undoWord p a b s).jrn.oldest = s.jrn.oldest ∧
    (undoWord p a b s).jrn.wrapped = s.jrn.wrapped ∧
    (undoWord p a b s).jrn.wholeSpan = s.jrn.wholeSpan ∧
    (undoWord p a b s).jrn.geCount = s.jrn.geCount ∧
    (undoWord p a b s).jrn.geps = s.jrn.geps ∧
    (undoWord p a b s).jrn.marks = s.jrn.marks ∧
    (undoWord p a b s).jrn.inq = s.jrn.inq ∧
    (undoWord p a b s).jrn.wrapRead = s.jrn.wrapRead ∧
    (undoWord p a b s).jrn.nextTok = s.jrn.nextTok := by
  refine ⟨?_, ?_, ?_, ?_, ?_, ?_, ?_, ?_, ?_, ?_⟩ <;> simp only [undoWord]
  all_goals (try simp)

@[simp] theorem reinsert_fields (e : DwellEntry) (s : State) :
    (reinsert e s).merge.starve = s.merge.starve ∧
    (reinsert e s).merge.limit = s.merge.limit ∧
    (reinsert e s).merge.quantum = s.merge.quantum ∧
    (reinsert e s).merge.window = s.merge.window ∧
    (reinsert e s).merge.start = s.merge.start ∧
    (reinsert e s).merge.filter = s.merge.filter ∧
    (reinsert e s).merge.ended = s.merge.ended := by
  refine ⟨?_, ?_, ?_, ?_, ?_, ?_, ?_⟩ <;> simp only [reinsert]
  all_goals (try simp)
  all_goals (try (split <;> simp))

@[simp] theorem reinsertRelease_fields (p : PointNo) (pos : Pos) (lead : BitVec 16) (w : PointWord) (s : State) :
    (reinsertRelease p pos lead w s).merge.starve = s.merge.starve ∧
    (reinsertRelease p pos lead w s).merge.limit = s.merge.limit ∧
    (reinsertRelease p pos lead w s).merge.quantum = s.merge.quantum ∧
    (reinsertRelease p pos lead w s).merge.window = s.merge.window ∧
    (reinsertRelease p pos lead w s).merge.start = s.merge.start ∧
    (reinsertRelease p pos lead w s).merge.filter = s.merge.filter ∧
    (reinsertRelease p pos lead w s).merge.ended = s.merge.ended := by
  refine ⟨?_, ?_, ?_, ?_, ?_, ?_, ?_⟩ <;> simp only [reinsertRelease]
  all_goals (repeat' split)
  all_goals (try simp)

@[simp] theorem undoEffect_fields (e : JEntry) (w : PointWord) (s : State) :
    (undoEffect e w s).jrn.head = s.jrn.head ∧
    (undoEffect e w s).jrn.oldest = s.jrn.oldest ∧
    (undoEffect e w s).jrn.wrapped = s.jrn.wrapped ∧
    (undoEffect e w s).jrn.wholeSpan = s.jrn.wholeSpan ∧
    (undoEffect e w s).jrn.marks = s.jrn.marks ∧
    (undoEffect e w s).jrn.inq = s.jrn.inq ∧
    (undoEffect e w s).jrn.wrapRead = s.jrn.wrapRead ∧
    (undoEffect e w s).jrn.nextTok = s.jrn.nextTok ∧
    (undoEffect e w s).merge.starve = s.merge.starve ∧
    (undoEffect e w s).merge.limit = s.merge.limit ∧
    (undoEffect e w s).merge.quantum = s.merge.quantum ∧
    (undoEffect e w s).merge.window = s.merge.window ∧
    (undoEffect e w s).merge.start = s.merge.start ∧
    (undoEffect e w s).merge.filter = s.merge.filter ∧
    (undoEffect e w s).merge.ended = s.merge.ended ∧
    (undoEffect e w s).lane.lane = s.lane.lane ∧
    (undoEffect e w s).lane.resume = s.lane.resume ∧
    (undoEffect e w s).lane.runMode = s.lane.runMode ∧
    (undoEffect e w s).lane.holds = s.lane.holds ∧
    (undoEffect e w s).lane.pace = s.lane.pace ∧
    (undoEffect e w s).lane.acc = s.lane.acc ∧
    (undoEffect e w s).lane.stopTime = s.lane.stopTime ∧
    (undoEffect e w s).lane.stopCount = s.lane.stopCount ∧
    (undoEffect e w s).lane.reload = s.lane.reload ∧
    (undoEffect e w s).lane.steps = s.lane.steps ∧
    (undoEffect e w s).lane.stepped = s.lane.stepped ∧
    (undoEffect e w s).lane.pend = s.lane.pend ∧
    (undoEffect e w s).lane.fault = s.lane.fault ∧
    (undoEffect e w s).lane.faultAddr = s.lane.faultAddr ∧
    (undoEffect e w s).front.discarded = s.front.discarded := by
  refine ⟨?_, ?_, ?_, ?_, ?_, ?_, ?_, ?_, ?_, ?_, ?_, ?_, ?_, ?_, ?_, ?_, ?_, ?_, ?_, ?_, ?_, ?_, ?_, ?_, ?_, ?_, ?_, ?_, ?_, ?_⟩ <;> simp only [undoEffect]
  all_goals (repeat' split)
  all_goals (try simp)

@[simp] theorem takeCursorBack_fields (e : JEntry) (s : State) :
    (takeCursorBack e s).front.offsets = s.front.offsets ∧
    (takeCursorBack e s).front.discarded = s.front.discarded := by
  refine ⟨?_, ?_⟩ <;> simp only [takeCursorBack]
  all_goals (repeat' split)
  all_goals (try simp)

@[simp] theorem headBack_fields (s : State) :
    (headBack  s).jrn.oldest = s.jrn.oldest ∧
    (headBack  s).jrn.wrapped = s.jrn.wrapped ∧
    (headBack  s).jrn.geCount = s.jrn.geCount ∧
    (headBack  s).jrn.geps = s.jrn.geps ∧
    (headBack  s).jrn.marks = s.jrn.marks ∧
    (headBack  s).jrn.inq = s.jrn.inq ∧
    (headBack  s).jrn.wrapRead = s.jrn.wrapRead ∧
    (headBack  s).jrn.walk = s.jrn.walk ∧
    (headBack  s).jrn.nextTok = s.jrn.nextTok := by
  refine ⟨?_, ?_, ?_, ?_, ?_, ?_, ?_, ?_, ?_⟩ <;> simp only [headBack]
  all_goals (try simp)

@[simp] theorem stepOn_fields (s : State) :
    (stepOn  s).jrn.head = s.jrn.head ∧
    (stepOn  s).jrn.oldest = s.jrn.oldest ∧
    (stepOn  s).jrn.wrapped = s.jrn.wrapped ∧
    (stepOn  s).jrn.wholeSpan = s.jrn.wholeSpan ∧
    (stepOn  s).jrn.geCount = s.jrn.geCount ∧
    (stepOn  s).jrn.geps = s.jrn.geps ∧
    (stepOn  s).jrn.marks = s.jrn.marks ∧
    (stepOn  s).jrn.inq = s.jrn.inq ∧
    (stepOn  s).jrn.wrapRead = s.jrn.wrapRead ∧
    (stepOn  s).jrn.nextTok = s.jrn.nextTok := by
  refine ⟨?_, ?_, ?_, ?_, ?_, ?_, ?_, ?_, ?_, ?_⟩ <;> simp only [stepOn]
  all_goals (repeat' split)
  all_goals (try simp)

@[simp] theorem undoOne_fields (e : Option JEntry) (w : PointWord) (s : State) :
    (undoOne e w s).jrn.oldest = s.jrn.oldest ∧
    (undoOne e w s).jrn.wrapped = s.jrn.wrapped ∧
    (undoOne e w s).jrn.inq = s.jrn.inq ∧
    (undoOne e w s).jrn.wrapRead = s.jrn.wrapRead ∧
    (undoOne e w s).jrn.nextTok = s.jrn.nextTok ∧
    (undoOne e w s).merge.starve = s.merge.starve ∧
    (undoOne e w s).merge.limit = s.merge.limit ∧
    (undoOne e w s).merge.quantum = s.merge.quantum ∧
    (undoOne e w s).merge.window = s.merge.window ∧
    (undoOne e w s).merge.start = s.merge.start ∧
    (undoOne e w s).merge.filter = s.merge.filter ∧
    (undoOne e w s).merge.ended = s.merge.ended ∧
    (undoOne e w s).lane.lane = s.lane.lane ∧
    (undoOne e w s).lane.resume = s.lane.resume ∧
    (undoOne e w s).lane.runMode = s.lane.runMode ∧
    (undoOne e w s).lane.holds = s.lane.holds ∧
    (undoOne e w s).lane.pace = s.lane.pace ∧
    (undoOne e w s).lane.acc = s.lane.acc ∧
    (undoOne e w s).lane.stopTime = s.lane.stopTime ∧
    (undoOne e w s).lane.stopCount = s.lane.stopCount ∧
    (undoOne e w s).lane.reload = s.lane.reload ∧
    (undoOne e w s).lane.steps = s.lane.steps ∧
    (undoOne e w s).lane.stepped = s.lane.stepped ∧
    (undoOne e w s).lane.pend = s.lane.pend ∧
    (undoOne e w s).lane.fault = s.lane.fault ∧
    (undoOne e w s).lane.faultAddr = s.lane.faultAddr ∧
    (undoOne e w s).front.discarded = s.front.discarded ∧
    (undoOne e w s).ntc.produced = s.ntc.produced ∧
    (undoOne e w s).ntc.consumed = s.ntc.consumed ∧
    (undoOne e w s).ntc.discarded = s.ntc.discarded ∧
    (undoOne e w s).ntc.overflow = s.ntc.overflow ∧
    (undoOne e w s).ntc.mask = s.ntc.mask ∧
    (undoOne e w s).ntc.lineEn = s.ntc.lineEn ∧
    (undoOne e w s).ntc.works = s.ntc.works ∧
    (undoOne e w s).ntc.status = s.ntc.status := by
  refine ⟨?_, ?_, ?_, ?_, ?_, ?_, ?_, ?_, ?_, ?_, ?_, ?_, ?_, ?_, ?_, ?_, ?_, ?_, ?_, ?_, ?_, ?_, ?_, ?_, ?_, ?_, ?_, ?_, ?_, ?_, ?_, ?_, ?_, ?_, ?_⟩
  all_goals
    simp only [undoOne]
    cases e <;> simp

@[simp] theorem readBefore_fields (e : JEntry) (p : PointNo) (s : State) :
    (readBefore e p s).jrn.head = s.jrn.head ∧
    (readBefore e p s).jrn.oldest = s.jrn.oldest ∧
    (readBefore e p s).jrn.wrapped = s.jrn.wrapped ∧
    (readBefore e p s).jrn.wholeSpan = s.jrn.wholeSpan ∧
    (readBefore e p s).jrn.geCount = s.jrn.geCount ∧
    (readBefore e p s).jrn.geps = s.jrn.geps ∧
    (readBefore e p s).jrn.marks = s.jrn.marks ∧
    (readBefore e p s).jrn.inq = s.jrn.inq ∧
    (readBefore e p s).jrn.wrapRead = s.jrn.wrapRead ∧
    (readBefore e p s).jrn.nextTok = s.jrn.nextTok := by
  refine ⟨?_, ?_, ?_, ?_, ?_, ?_, ?_, ?_, ?_, ?_⟩ <;> simp only [readBefore]
  all_goals (try simp)

@[simp] theorem entryRead_fields (w : Walk) (e : Option JEntry) (s : State) :
    (entryRead w e s).jrn.oldest = s.jrn.oldest ∧
    (entryRead w e s).jrn.wrapped = s.jrn.wrapped ∧
    (entryRead w e s).jrn.inq = s.jrn.inq ∧
    (entryRead w e s).jrn.wrapRead = s.jrn.wrapRead ∧
    (entryRead w e s).jrn.nextTok = s.jrn.nextTok ∧
    (entryRead w e s).merge.starve = s.merge.starve ∧
    (entryRead w e s).merge.limit = s.merge.limit ∧
    (entryRead w e s).merge.quantum = s.merge.quantum ∧
    (entryRead w e s).merge.window = s.merge.window ∧
    (entryRead w e s).merge.start = s.merge.start ∧
    (entryRead w e s).merge.filter = s.merge.filter ∧
    (entryRead w e s).merge.ended = s.merge.ended ∧
    (entryRead w e s).lane.lane = s.lane.lane ∧
    (entryRead w e s).lane.resume = s.lane.resume ∧
    (entryRead w e s).lane.runMode = s.lane.runMode ∧
    (entryRead w e s).lane.holds = s.lane.holds ∧
    (entryRead w e s).lane.pace = s.lane.pace ∧
    (entryRead w e s).lane.acc = s.lane.acc ∧
    (entryRead w e s).lane.stopTime = s.lane.stopTime ∧
    (entryRead w e s).lane.stopCount = s.lane.stopCount ∧
    (entryRead w e s).lane.reload = s.lane.reload ∧
    (entryRead w e s).lane.steps = s.lane.steps ∧
    (entryRead w e s).lane.stepped = s.lane.stepped ∧
    (entryRead w e s).lane.pend = s.lane.pend ∧
    (entryRead w e s).lane.fault = s.lane.fault ∧
    (entryRead w e s).lane.faultAddr = s.lane.faultAddr ∧
    (entryRead w e s).front.discarded = s.front.discarded ∧
    (entryRead w e s).ntc.produced = s.ntc.produced ∧
    (entryRead w e s).ntc.consumed = s.ntc.consumed ∧
    (entryRead w e s).ntc.discarded = s.ntc.discarded ∧
    (entryRead w e s).ntc.overflow = s.ntc.overflow ∧
    (entryRead w e s).ntc.mask = s.ntc.mask ∧
    (entryRead w e s).ntc.lineEn = s.ntc.lineEn ∧
    (entryRead w e s).ntc.works = s.ntc.works ∧
    (entryRead w e s).ntc.status = s.ntc.status := by
  refine ⟨?_, ?_, ?_, ?_, ?_, ?_, ?_, ?_, ?_, ?_, ?_, ?_, ?_, ?_, ?_, ?_, ?_, ?_, ?_, ?_, ?_, ?_, ?_, ?_, ?_, ?_, ?_, ?_, ?_, ?_, ?_, ?_, ?_, ?_, ?_⟩ <;> simp only [entryRead]
  all_goals (repeat' split)
  all_goals (try simp)

@[simp] theorem undoRead_fields (w : Walk) (r : Ret) (s : State) :
    (undoRead w r s).jrn.oldest = s.jrn.oldest ∧
    (undoRead w r s).jrn.wrapped = s.jrn.wrapped ∧
    (undoRead w r s).jrn.inq = s.jrn.inq ∧
    (undoRead w r s).jrn.wrapRead = s.jrn.wrapRead ∧
    (undoRead w r s).jrn.nextTok = s.jrn.nextTok ∧
    (undoRead w r s).merge.starve = s.merge.starve ∧
    (undoRead w r s).merge.limit = s.merge.limit ∧
    (undoRead w r s).merge.quantum = s.merge.quantum ∧
    (undoRead w r s).merge.window = s.merge.window ∧
    (undoRead w r s).merge.start = s.merge.start ∧
    (undoRead w r s).merge.filter = s.merge.filter ∧
    (undoRead w r s).merge.ended = s.merge.ended ∧
    (undoRead w r s).lane.lane = s.lane.lane ∧
    (undoRead w r s).lane.resume = s.lane.resume ∧
    (undoRead w r s).lane.runMode = s.lane.runMode ∧
    (undoRead w r s).lane.holds = s.lane.holds ∧
    (undoRead w r s).lane.pace = s.lane.pace ∧
    (undoRead w r s).lane.acc = s.lane.acc ∧
    (undoRead w r s).lane.stopTime = s.lane.stopTime ∧
    (undoRead w r s).lane.stopCount = s.lane.stopCount ∧
    (undoRead w r s).lane.reload = s.lane.reload ∧
    (undoRead w r s).lane.steps = s.lane.steps ∧
    (undoRead w r s).lane.stepped = s.lane.stepped ∧
    (undoRead w r s).lane.pend = s.lane.pend ∧
    (undoRead w r s).lane.fault = s.lane.fault ∧
    (undoRead w r s).lane.faultAddr = s.lane.faultAddr ∧
    (undoRead w r s).front.discarded = s.front.discarded ∧
    (undoRead w r s).ntc.produced = s.ntc.produced ∧
    (undoRead w r s).ntc.consumed = s.ntc.consumed ∧
    (undoRead w r s).ntc.discarded = s.ntc.discarded ∧
    (undoRead w r s).ntc.overflow = s.ntc.overflow ∧
    (undoRead w r s).ntc.mask = s.ntc.mask ∧
    (undoRead w r s).ntc.lineEn = s.ntc.lineEn ∧
    (undoRead w r s).ntc.works = s.ntc.works ∧
    (undoRead w r s).ntc.status = s.ntc.status := by
  refine ⟨?_, ?_, ?_, ?_, ?_, ?_, ?_, ?_, ?_, ?_, ?_, ?_, ?_, ?_, ?_, ?_, ?_, ?_, ?_, ?_, ?_, ?_, ?_, ?_, ?_, ?_, ?_, ?_, ?_, ?_, ?_, ?_, ?_, ?_, ?_⟩ <;> simp only [undoRead]
  all_goals (repeat' split)
  all_goals (try simp)

@[simp] theorem clearStep_fields (s : State) :
    (clearStep  s).commit.fly = s.commit.fly ∧
    (clearStep  s).commit.watches = s.commit.watches := by
  refine ⟨?_, ?_⟩ <;> simp only [clearStep]
  all_goals (try simp)

@[simp] theorem stepBoundary_fields (s : State) :
    (stepBoundary  s).ntc.consumed = s.ntc.consumed ∧
    (stepBoundary  s).ntc.mask = s.ntc.mask ∧
    (stepBoundary  s).ntc.lineEn = s.ntc.lineEn ∧
    (stepBoundary  s).ntc.works = s.ntc.works ∧
    (stepBoundary  s).ntc.status = s.ntc.status ∧
    (stepBoundary  s).front.discarded = s.front.discarded ∧
    (stepBoundary  s).merge.dwell = s.merge.dwell ∧
    (stepBoundary  s).merge.limit = s.merge.limit ∧
    (stepBoundary  s).merge.quantum = s.merge.quantum ∧
    (stepBoundary  s).merge.window = s.merge.window ∧
    (stepBoundary  s).merge.start = s.merge.start ∧
    (stepBoundary  s).merge.filter = s.merge.filter ∧
    (stepBoundary  s).jrn.oldest = s.jrn.oldest ∧
    (stepBoundary  s).jrn.wrapped = s.jrn.wrapped ∧
    (stepBoundary  s).jrn.wholeSpan = s.jrn.wholeSpan ∧
    (stepBoundary  s).jrn.marks = s.jrn.marks ∧
    (stepBoundary  s).stager.cur = s.stager.cur ∧
    (stepBoundary  s).commit.fly = s.commit.fly ∧
    (stepBoundary  s).commit.watches = s.commit.watches := by
  refine ⟨?_, ?_, ?_, ?_, ?_, ?_, ?_, ?_, ?_, ?_, ?_, ?_, ?_, ?_, ?_, ?_, ?_, ?_, ?_⟩ <;> simp only [stepBoundary]
  all_goals (repeat' split)
  all_goals (try simp)

@[simp] theorem stepRestored_fields (w : Walk) (s : State) :
    (stepRestored w s).ntc.consumed = s.ntc.consumed ∧
    (stepRestored w s).ntc.mask = s.ntc.mask ∧
    (stepRestored w s).ntc.lineEn = s.ntc.lineEn ∧
    (stepRestored w s).ntc.works = s.ntc.works ∧
    (stepRestored w s).ntc.status = s.ntc.status ∧
    (stepRestored w s).front.offsets = s.front.offsets ∧
    (stepRestored w s).front.discarded = s.front.discarded ∧
    (stepRestored w s).merge.dwell = s.merge.dwell ∧
    (stepRestored w s).merge.limit = s.merge.limit ∧
    (stepRestored w s).merge.quantum = s.merge.quantum ∧
    (stepRestored w s).merge.window = s.merge.window ∧
    (stepRestored w s).merge.start = s.merge.start ∧
    (stepRestored w s).merge.filter = s.merge.filter ∧
    (stepRestored w s).jrn.head = s.jrn.head ∧
    (stepRestored w s).jrn.oldest = s.jrn.oldest ∧
    (stepRestored w s).jrn.wrapped = s.jrn.wrapped ∧
    (stepRestored w s).jrn.wholeSpan = s.jrn.wholeSpan ∧
    (stepRestored w s).jrn.geCount = s.jrn.geCount ∧
    (stepRestored w s).jrn.geps = s.jrn.geps ∧
    (stepRestored w s).jrn.marks = s.jrn.marks ∧
    (stepRestored w s).jrn.inq = s.jrn.inq ∧
    (stepRestored w s).jrn.wrapRead = s.jrn.wrapRead ∧
    (stepRestored w s).jrn.nextTok = s.jrn.nextTok ∧
    (stepRestored w s).commit.fly = s.commit.fly ∧
    (stepRestored w s).commit.watches = s.commit.watches := by
  refine ⟨?_, ?_, ?_, ?_, ?_, ?_, ?_, ?_, ?_, ?_, ?_, ?_, ?_, ?_, ?_, ?_, ?_, ?_, ?_, ?_, ?_, ?_, ?_, ?_, ?_⟩ <;> simp only [stepRestored]
  all_goals (try simp)

@[simp] theorem startValidation_fields (s : State) :
    (startValidation  s).cmd.n = s.cmd.n ∧
    (startValidation  s).cmd.pend = s.cmd.pend := by
  refine ⟨?_, ?_⟩ <;> simp only [startValidation]
  all_goals (try simp)

@[simp] theorem actConfigure_fields (s : State) :
    (actConfigure  s).cmd.n = s.cmd.n ∧
    (actConfigure  s).cmd.pend = s.cmd.pend := by
  refine ⟨?_, ?_⟩ <;> simp only [actConfigure]
  all_goals (repeat' split)
  all_goals (try simp)

@[simp] theorem judgeConfigure_fields (a : List (Nat × Option (List Byte))) (b : List (ChanNo × Option (List Byte))) (s : State) :
    (judgeConfigure a b s).ntc.produced = s.ntc.produced ∧
    (judgeConfigure a b s).ntc.consumed = s.ntc.consumed ∧
    (judgeConfigure a b s).ntc.discarded = s.ntc.discarded ∧
    (judgeConfigure a b s).ntc.overflow = s.ntc.overflow ∧
    (judgeConfigure a b s).ntc.mask = s.ntc.mask ∧
    (judgeConfigure a b s).ntc.lineEn = s.ntc.lineEn ∧
    (judgeConfigure a b s).ntc.works = s.ntc.works ∧
    (judgeConfigure a b s).ntc.status = s.ntc.status := by
  refine ⟨?_, ?_, ?_, ?_, ?_, ?_, ?_, ?_⟩ <;> simp only [judgeConfigure]
  all_goals (repeat' split)
  all_goals (try simp)

@[simp] theorem endPass_fields (s : State) :
    (endPass  s).ntc.consumed = s.ntc.consumed ∧
    (endPass  s).ntc.mask = s.ntc.mask ∧
    (endPass  s).ntc.lineEn = s.ntc.lineEn ∧
    (endPass  s).ntc.works = s.ntc.works ∧
    (endPass  s).ntc.status = s.ntc.status ∧
    (endPass  s).front.offsets = s.front.offsets ∧
    (endPass  s).front.discarded = s.front.discarded ∧
    (endPass  s).merge.dwell = s.merge.dwell ∧
    (endPass  s).merge.limit = s.merge.limit ∧
    (endPass  s).merge.quantum = s.merge.quantum ∧
    (endPass  s).merge.window = s.merge.window ∧
    (endPass  s).merge.start = s.merge.start ∧
    (endPass  s).merge.filter = s.merge.filter := by
  refine ⟨?_, ?_, ?_, ?_, ?_, ?_, ?_, ?_, ?_, ?_, ?_, ?_, ?_⟩ <;> simp only [endPass]
  all_goals (try simp)

@[simp] theorem nextWord_fields (s : State) :
    (nextWord  s).ntc.consumed = s.ntc.consumed ∧
    (nextWord  s).ntc.mask = s.ntc.mask ∧
    (nextWord  s).ntc.lineEn = s.ntc.lineEn ∧
    (nextWord  s).ntc.works = s.ntc.works ∧
    (nextWord  s).ntc.status = s.ntc.status ∧
    (nextWord  s).front.offsets = s.front.offsets ∧
    (nextWord  s).front.discarded = s.front.discarded ∧
    (nextWord  s).merge.dwell = s.merge.dwell ∧
    (nextWord  s).merge.limit = s.merge.limit ∧
    (nextWord  s).merge.quantum = s.merge.quantum ∧
    (nextWord  s).merge.window = s.merge.window ∧
    (nextWord  s).merge.start = s.merge.start ∧
    (nextWord  s).merge.filter = s.merge.filter := by
  refine ⟨?_, ?_, ?_, ?_, ?_, ?_, ?_, ?_, ?_, ?_, ?_, ?_, ?_⟩ <;> simp only [nextWord]
  all_goals (repeat' split)
  all_goals (try simp)

@[simp] theorem keepWord_fields (w : PointWord) (s : State) :
    (keepWord w s).ntc.consumed = s.ntc.consumed ∧
    (keepWord w s).ntc.mask = s.ntc.mask ∧
    (keepWord w s).ntc.lineEn = s.ntc.lineEn ∧
    (keepWord w s).ntc.works = s.ntc.works ∧
    (keepWord w s).ntc.status = s.ntc.status ∧
    (keepWord w s).front.offsets = s.front.offsets ∧
    (keepWord w s).front.discarded = s.front.discarded ∧
    (keepWord w s).merge.dwell = s.merge.dwell ∧
    (keepWord w s).merge.limit = s.merge.limit ∧
    (keepWord w s).merge.quantum = s.merge.quantum ∧
    (keepWord w s).merge.window = s.merge.window ∧
    (keepWord w s).merge.start = s.merge.start ∧
    (keepWord w s).merge.filter = s.merge.filter := by
  refine ⟨?_, ?_, ?_, ?_, ?_, ?_, ?_, ?_, ?_, ?_, ?_, ?_, ?_⟩ <;> simp only [keepWord]
  all_goals (repeat' split)
  all_goals (try simp)

@[simp] theorem passWord_fields (r : Ret) (s : State) :
    (passWord r s).ntc.consumed = s.ntc.consumed ∧
    (passWord r s).ntc.mask = s.ntc.mask ∧
    (passWord r s).ntc.lineEn = s.ntc.lineEn ∧
    (passWord r s).ntc.works = s.ntc.works ∧
    (passWord r s).ntc.status = s.ntc.status ∧
    (passWord r s).front.offsets = s.front.offsets ∧
    (passWord r s).front.discarded = s.front.discarded ∧
    (passWord r s).merge.dwell = s.merge.dwell ∧
    (passWord r s).merge.limit = s.merge.limit ∧
    (passWord r s).merge.quantum = s.merge.quantum ∧
    (passWord r s).merge.window = s.merge.window ∧
    (passWord r s).merge.start = s.merge.start ∧
    (passWord r s).merge.filter = s.merge.filter := by
  refine ⟨?_, ?_, ?_, ?_, ?_, ?_, ?_, ?_, ?_, ?_, ?_, ?_, ?_⟩ <;> simp only [passWord]
  all_goals (repeat' split)
  all_goals (try simp)

@[simp] theorem finishUnconfigure_fields (s : State) :
    (finishUnconfigure  s).ntc.produced = s.ntc.produced ∧
    (finishUnconfigure  s).ntc.consumed = s.ntc.consumed ∧
    (finishUnconfigure  s).ntc.discarded = s.ntc.discarded ∧
    (finishUnconfigure  s).ntc.overflow = s.ntc.overflow ∧
    (finishUnconfigure  s).ntc.mask = s.ntc.mask ∧
    (finishUnconfigure  s).ntc.lineEn = s.ntc.lineEn ∧
    (finishUnconfigure  s).ntc.works = s.ntc.works ∧
    (finishUnconfigure  s).jrn.head = s.jrn.head ∧
    (finishUnconfigure  s).jrn.oldest = s.jrn.oldest ∧
    (finishUnconfigure  s).jrn.wrapped = s.jrn.wrapped ∧
    (finishUnconfigure  s).jrn.wholeSpan = s.jrn.wholeSpan ∧
    (finishUnconfigure  s).jrn.geCount = s.jrn.geCount ∧
    (finishUnconfigure  s).jrn.geps = s.jrn.geps ∧
    (finishUnconfigure  s).jrn.marks = s.jrn.marks ∧
    (finishUnconfigure  s).jrn.inq = s.jrn.inq ∧
    (finishUnconfigure  s).jrn.wrapRead = s.jrn.wrapRead ∧
    (finishUnconfigure  s).jrn.nextTok = s.jrn.nextTok := by
  refine ⟨?_, ?_, ?_, ?_, ?_, ?_, ?_, ?_, ?_, ?_, ?_, ?_, ?_, ?_, ?_, ?_, ?_⟩ <;> simp only [finishUnconfigure]
  all_goals (try simp)

@[simp] theorem actUnconfigure_fields (s : State) :
    (actUnconfigure  s).ntc.produced = s.ntc.produced ∧
    (actUnconfigure  s).ntc.consumed = s.ntc.consumed ∧
    (actUnconfigure  s).ntc.discarded = s.ntc.discarded ∧
    (actUnconfigure  s).ntc.overflow = s.ntc.overflow ∧
    (actUnconfigure  s).ntc.mask = s.ntc.mask ∧
    (actUnconfigure  s).ntc.lineEn = s.ntc.lineEn ∧
    (actUnconfigure  s).ntc.works = s.ntc.works ∧
    (actUnconfigure  s).jrn.head = s.jrn.head ∧
    (actUnconfigure  s).jrn.oldest = s.jrn.oldest ∧
    (actUnconfigure  s).jrn.wrapped = s.jrn.wrapped ∧
    (actUnconfigure  s).jrn.wholeSpan = s.jrn.wholeSpan ∧
    (actUnconfigure  s).jrn.geCount = s.jrn.geCount ∧
    (actUnconfigure  s).jrn.geps = s.jrn.geps ∧
    (actUnconfigure  s).jrn.marks = s.jrn.marks ∧
    (actUnconfigure  s).jrn.inq = s.jrn.inq ∧
    (actUnconfigure  s).jrn.wrapRead = s.jrn.wrapRead ∧
    (actUnconfigure  s).jrn.nextTok = s.jrn.nextTok := by
  refine ⟨?_, ?_, ?_, ?_, ?_, ?_, ?_, ?_, ?_, ?_, ?_, ?_, ?_, ?_, ?_, ?_, ?_⟩ <;> simp only [actUnconfigure]
  all_goals (repeat' split)
  all_goals (try simp)

@[simp] theorem startLane_fields (s : State) :
    (startLane  s).ntc.consumed = s.ntc.consumed ∧
    (startLane  s).ntc.mask = s.ntc.mask ∧
    (startLane  s).ntc.lineEn = s.ntc.lineEn ∧
    (startLane  s).ntc.works = s.ntc.works ∧
    (startLane  s).ntc.status = s.ntc.status := by
  refine ⟨?_, ?_, ?_, ?_, ?_⟩ <;> simp only [startLane]
  all_goals (repeat' split)
  all_goals (try simp)

@[simp] theorem reportEnd_fields (s : State) :
    (reportEnd  s).ntc.consumed = s.ntc.consumed ∧
    (reportEnd  s).ntc.mask = s.ntc.mask ∧
    (reportEnd  s).ntc.lineEn = s.ntc.lineEn ∧
    (reportEnd  s).ntc.works = s.ntc.works ∧
    (reportEnd  s).ntc.status = s.ntc.status := by
  refine ⟨?_, ?_, ?_, ?_, ?_⟩ <;> simp only [reportEnd]
  all_goals (repeat' split)
  all_goals (try simp)

@[simp] theorem laneAnswer_fields (s : State) :
    (laneAnswer  s).ntc.produced = s.ntc.produced ∧
    (laneAnswer  s).ntc.consumed = s.ntc.consumed ∧
    (laneAnswer  s).ntc.discarded = s.ntc.discarded ∧
    (laneAnswer  s).ntc.overflow = s.ntc.overflow ∧
    (laneAnswer  s).ntc.mask = s.ntc.mask ∧
    (laneAnswer  s).ntc.lineEn = s.ntc.lineEn ∧
    (laneAnswer  s).ntc.works = s.ntc.works ∧
    (laneAnswer  s).ntc.status = s.ntc.status := by
  refine ⟨?_, ?_, ?_, ?_, ?_, ?_, ?_, ?_⟩ <;> simp only [laneAnswer]
  all_goals (try simp)

@[simp] theorem startRun_fields (m : RunMode) (s : State) :
    (startRun m s).ntc.consumed = s.ntc.consumed ∧
    (startRun m s).ntc.mask = s.ntc.mask ∧
    (startRun m s).ntc.lineEn = s.ntc.lineEn ∧
    (startRun m s).ntc.works = s.ntc.works ∧
    (startRun m s).ntc.status = s.ntc.status := by
  refine ⟨?_, ?_, ?_, ?_, ?_⟩ <;> simp only [startRun]
  all_goals (repeat' split)
  all_goals (try simp)

@[simp] theorem startStep_fields (n : Nat) (s : State) :
    (startStep n s).ntc.consumed = s.ntc.consumed ∧
    (startStep n s).ntc.mask = s.ntc.mask ∧
    (startStep n s).ntc.lineEn = s.ntc.lineEn ∧
    (startStep n s).ntc.works = s.ntc.works ∧
    (startStep n s).ntc.status = s.ntc.status := by
  refine ⟨?_, ?_, ?_, ?_, ?_⟩ <;> simp only [startStep]
  all_goals (repeat' split)
  all_goals (try simp)

@[simp] theorem actRun_fields (d : List Byte) (s : State) :
    (actRun d s).ntc.consumed = s.ntc.consumed ∧
    (actRun d s).ntc.mask = s.ntc.mask ∧
    (actRun d s).ntc.lineEn = s.ntc.lineEn ∧
    (actRun d s).ntc.works = s.ntc.works ∧
    (actRun d s).ntc.status = s.ntc.status ∧
    (actRun d s).front.offsets = s.front.offsets ∧
    (actRun d s).front.discarded = s.front.discarded ∧
    (actRun d s).merge.dwell = s.merge.dwell ∧
    (actRun d s).merge.limit = s.merge.limit ∧
    (actRun d s).merge.quantum = s.merge.quantum ∧
    (actRun d s).merge.window = s.merge.window ∧
    (actRun d s).merge.start = s.merge.start ∧
    (actRun d s).merge.filter = s.merge.filter := by
  refine ⟨?_, ?_, ?_, ?_, ?_, ?_, ?_, ?_, ?_, ?_, ?_, ?_, ?_⟩ <;> simp only [actRun]
  all_goals (repeat' split)
  all_goals (try simp)

@[simp] theorem actStep_fields (d : List Byte) (s : State) :
    (actStep d s).ntc.consumed = s.ntc.consumed ∧
    (actStep d s).ntc.mask = s.ntc.mask ∧
    (actStep d s).ntc.lineEn = s.ntc.lineEn ∧
    (actStep d s).ntc.works = s.ntc.works ∧
    (actStep d s).ntc.status = s.ntc.status ∧
    (actStep d s).front.offsets = s.front.offsets ∧
    (actStep d s).front.discarded = s.front.discarded ∧
    (actStep d s).merge.dwell = s.merge.dwell ∧
    (actStep d s).merge.limit = s.merge.limit ∧
    (actStep d s).merge.quantum = s.merge.quantum ∧
    (actStep d s).merge.window = s.merge.window ∧
    (actStep d s).merge.start = s.merge.start ∧
    (actStep d s).merge.filter = s.merge.filter := by
  refine ⟨?_, ?_, ?_, ?_, ?_, ?_, ?_, ?_, ?_, ?_, ?_, ?_, ?_⟩ <;> simp only [actStep]
  all_goals (repeat' split)
  all_goals (try simp)

@[simp] theorem stopAnswer_fields (n : Nat) (s : State) :
    (stopAnswer n s).ntc.produced = s.ntc.produced ∧
    (stopAnswer n s).ntc.consumed = s.ntc.consumed ∧
    (stopAnswer n s).ntc.discarded = s.ntc.discarded ∧
    (stopAnswer n s).ntc.overflow = s.ntc.overflow ∧
    (stopAnswer n s).ntc.mask = s.ntc.mask ∧
    (stopAnswer n s).ntc.lineEn = s.ntc.lineEn ∧
    (stopAnswer n s).ntc.works = s.ntc.works ∧
    (stopAnswer n s).ntc.status = s.ntc.status := by
  refine ⟨?_, ?_, ?_, ?_, ?_, ?_, ?_, ?_⟩ <;> simp only [stopAnswer]
  all_goals (try simp)

@[simp] theorem actStop_fields (s : State) :
    (actStop  s).ntc.consumed = s.ntc.consumed ∧
    (actStop  s).ntc.mask = s.ntc.mask ∧
    (actStop  s).ntc.lineEn = s.ntc.lineEn ∧
    (actStop  s).ntc.works = s.ntc.works ∧
    (actStop  s).ntc.status = s.ntc.status ∧
    (actStop  s).front.offsets = s.front.offsets ∧
    (actStop  s).front.discarded = s.front.discarded ∧
    (actStop  s).merge.dwell = s.merge.dwell ∧
    (actStop  s).merge.limit = s.merge.limit ∧
    (actStop  s).merge.quantum = s.merge.quantum ∧
    (actStop  s).merge.window = s.merge.window ∧
    (actStop  s).merge.start = s.merge.start ∧
    (actStop  s).merge.filter = s.merge.filter ∧
    (actStop  s).jrn.head = s.jrn.head ∧
    (actStop  s).jrn.oldest = s.jrn.oldest ∧
    (actStop  s).jrn.wrapped = s.jrn.wrapped ∧
    (actStop  s).jrn.wholeSpan = s.jrn.wholeSpan ∧
    (actStop  s).jrn.geCount = s.jrn.geCount ∧
    (actStop  s).jrn.geps = s.jrn.geps ∧
    (actStop  s).jrn.marks = s.jrn.marks ∧
    (actStop  s).jrn.inq = s.jrn.inq ∧
    (actStop  s).jrn.wrapRead = s.jrn.wrapRead ∧
    (actStop  s).jrn.nextTok = s.jrn.nextTok := by
  refine ⟨?_, ?_, ?_, ?_, ?_, ?_, ?_, ?_, ?_, ?_, ?_, ?_, ?_, ?_, ?_, ?_, ?_, ?_, ?_, ?_, ?_, ?_, ?_⟩ <;> simp only [actStop]
  all_goals (repeat' split)
  all_goals (try simp)

@[simp] theorem transferAll_fields (s : State) :
    (transferAll  s).ntc.consumed = s.ntc.consumed ∧
    (transferAll  s).ntc.mask = s.ntc.mask ∧
    (transferAll  s).ntc.lineEn = s.ntc.lineEn ∧
    (transferAll  s).ntc.works = s.ntc.works ∧
    (transferAll  s).ntc.status = s.ntc.status ∧
    (transferAll  s).front.discarded = s.front.discarded ∧
    (transferAll  s).jrn.oldest = s.jrn.oldest ∧
    (transferAll  s).jrn.wrapped = s.jrn.wrapped ∧
    (transferAll  s).jrn.wholeSpan = s.jrn.wholeSpan ∧
    (transferAll  s).jrn.marks = s.jrn.marks ∧
    (transferAll  s).jrn.walk = s.jrn.walk ∧
    (transferAll  s).stager.cur = s.stager.cur ∧
    (transferAll  s).lane.lane = s.lane.lane ∧
    (transferAll  s).lane.resume = s.lane.resume ∧
    (transferAll  s).lane.runMode = s.lane.runMode ∧
    (transferAll  s).lane.holds = s.lane.holds ∧
    (transferAll  s).lane.c = s.lane.c ∧
    (transferAll  s).lane.r = s.lane.r ∧
    (transferAll  s).lane.f = s.lane.f ∧
    (transferAll  s).lane.group = s.lane.group ∧
    (transferAll  s).lane.acc = s.lane.acc ∧
    (transferAll  s).lane.steps = s.lane.steps ∧
    (transferAll  s).lane.stepped = s.lane.stepped ∧
    (transferAll  s).lane.fault = s.lane.fault ∧
    (transferAll  s).lane.faultAddr = s.lane.faultAddr := by
  refine ⟨?_, ?_, ?_, ?_, ?_, ?_, ?_, ?_, ?_, ?_, ?_, ?_, ?_, ?_, ?_, ?_, ?_, ?_, ?_, ?_, ?_, ?_, ?_, ?_, ?_⟩ <;> simp only [transferAll]
  all_goals (try simp)

@[simp] theorem settingTaken_fields (s : State) :
    (settingTaken  s).ntc.consumed = s.ntc.consumed ∧
    (settingTaken  s).ntc.mask = s.ntc.mask ∧
    (settingTaken  s).ntc.lineEn = s.ntc.lineEn ∧
    (settingTaken  s).ntc.works = s.ntc.works ∧
    (settingTaken  s).ntc.status = s.ntc.status ∧
    (settingTaken  s).front.discarded = s.front.discarded ∧
    (settingTaken  s).merge.dwell = s.merge.dwell ∧
    (settingTaken  s).merge.limit = s.merge.limit ∧
    (settingTaken  s).merge.quantum = s.merge.quantum ∧
    (settingTaken  s).merge.window = s.merge.window ∧
    (settingTaken  s).merge.start = s.merge.start ∧
    (settingTaken  s).merge.filter = s.merge.filter ∧
    (settingTaken  s).jrn.oldest = s.jrn.oldest ∧
    (settingTaken  s).jrn.wrapped = s.jrn.wrapped ∧
    (settingTaken  s).jrn.wholeSpan = s.jrn.wholeSpan ∧
    (settingTaken  s).jrn.marks = s.jrn.marks ∧
    (settingTaken  s).jrn.walk = s.jrn.walk ∧
    (settingTaken  s).stager.cur = s.stager.cur := by
  refine ⟨?_, ?_, ?_, ?_, ?_, ?_, ?_, ?_, ?_, ?_, ?_, ?_, ?_, ?_, ?_, ?_, ?_, ?_⟩ <;> simp only [settingTaken]
  all_goals (repeat' split)
  all_goals (try simp)

@[simp] theorem actSetPace_fields (d : List Byte) (s : State) :
    (actSetPace d s).ntc.consumed = s.ntc.consumed ∧
    (actSetPace d s).ntc.mask = s.ntc.mask ∧
    (actSetPace d s).ntc.lineEn = s.ntc.lineEn ∧
    (actSetPace d s).ntc.works = s.ntc.works ∧
    (actSetPace d s).ntc.status = s.ntc.status ∧
    (actSetPace d s).front.discarded = s.front.discarded ∧
    (actSetPace d s).merge.dwell = s.merge.dwell ∧
    (actSetPace d s).merge.limit = s.merge.limit ∧
    (actSetPace d s).merge.quantum = s.merge.quantum ∧
    (actSetPace d s).merge.window = s.merge.window ∧
    (actSetPace d s).merge.start = s.merge.start ∧
    (actSetPace d s).merge.filter = s.merge.filter ∧
    (actSetPace d s).jrn.oldest = s.jrn.oldest ∧
    (actSetPace d s).jrn.wrapped = s.jrn.wrapped ∧
    (actSetPace d s).jrn.wholeSpan = s.jrn.wholeSpan ∧
    (actSetPace d s).jrn.marks = s.jrn.marks ∧
    (actSetPace d s).jrn.walk = s.jrn.walk ∧
    (actSetPace d s).stager.cur = s.stager.cur := by
  refine ⟨?_, ?_, ?_, ?_, ?_, ?_, ?_, ?_, ?_, ?_, ?_, ?_, ?_, ?_, ?_, ?_, ?_, ?_⟩ <;> simp only [actSetPace]
  all_goals (repeat' split)
  all_goals (try simp)

@[simp] theorem actSetStopTime_fields (d : List Byte) (s : State) :
    (actSetStopTime d s).ntc.consumed = s.ntc.consumed ∧
    (actSetStopTime d s).ntc.mask = s.ntc.mask ∧
    (actSetStopTime d s).ntc.lineEn = s.ntc.lineEn ∧
    (actSetStopTime d s).ntc.works = s.ntc.works ∧
    (actSetStopTime d s).ntc.status = s.ntc.status ∧
    (actSetStopTime d s).front.discarded = s.front.discarded ∧
    (actSetStopTime d s).merge.dwell = s.merge.dwell ∧
    (actSetStopTime d s).merge.limit = s.merge.limit ∧
    (actSetStopTime d s).merge.quantum = s.merge.quantum ∧
    (actSetStopTime d s).merge.window = s.merge.window ∧
    (actSetStopTime d s).merge.start = s.merge.start ∧
    (actSetStopTime d s).merge.filter = s.merge.filter ∧
    (actSetStopTime d s).jrn.oldest = s.jrn.oldest ∧
    (actSetStopTime d s).jrn.wrapped = s.jrn.wrapped ∧
    (actSetStopTime d s).jrn.wholeSpan = s.jrn.wholeSpan ∧
    (actSetStopTime d s).jrn.marks = s.jrn.marks ∧
    (actSetStopTime d s).jrn.walk = s.jrn.walk ∧
    (actSetStopTime d s).stager.cur = s.stager.cur := by
  refine ⟨?_, ?_, ?_, ?_, ?_, ?_, ?_, ?_, ?_, ?_, ?_, ?_, ?_, ?_, ?_, ?_, ?_, ?_⟩ <;> simp only [actSetStopTime]
  all_goals (repeat' split)
  all_goals (try simp)

@[simp] theorem actSetSkew_fields (d : List Byte) (s : State) :
    (actSetSkew d s).ntc.consumed = s.ntc.consumed ∧
    (actSetSkew d s).ntc.mask = s.ntc.mask ∧
    (actSetSkew d s).ntc.lineEn = s.ntc.lineEn ∧
    (actSetSkew d s).ntc.works = s.ntc.works ∧
    (actSetSkew d s).ntc.status = s.ntc.status ∧
    (actSetSkew d s).front.discarded = s.front.discarded ∧
    (actSetSkew d s).merge.dwell = s.merge.dwell ∧
    (actSetSkew d s).merge.limit = s.merge.limit ∧
    (actSetSkew d s).merge.quantum = s.merge.quantum ∧
    (actSetSkew d s).merge.window = s.merge.window ∧
    (actSetSkew d s).merge.start = s.merge.start ∧
    (actSetSkew d s).merge.filter = s.merge.filter ∧
    (actSetSkew d s).jrn.oldest = s.jrn.oldest ∧
    (actSetSkew d s).jrn.wrapped = s.jrn.wrapped ∧
    (actSetSkew d s).jrn.wholeSpan = s.jrn.wholeSpan ∧
    (actSetSkew d s).jrn.marks = s.jrn.marks ∧
    (actSetSkew d s).jrn.walk = s.jrn.walk ∧
    (actSetSkew d s).stager.cur = s.stager.cur := by
  refine ⟨?_, ?_, ?_, ?_, ?_, ?_, ?_, ?_, ?_, ?_, ?_, ?_, ?_, ?_, ?_, ?_, ?_, ?_⟩ <;> simp only [actSetSkew]
  all_goals (repeat' split)
  all_goals (try simp)

@[simp] theorem actSetStopCount_fields (d : List Byte) (s : State) :
    (actSetStopCount d s).ntc.consumed = s.ntc.consumed ∧
    (actSetStopCount d s).ntc.mask = s.ntc.mask ∧
    (actSetStopCount d s).ntc.lineEn = s.ntc.lineEn ∧
    (actSetStopCount d s).ntc.works = s.ntc.works ∧
    (actSetStopCount d s).ntc.status = s.ntc.status ∧
    (actSetStopCount d s).front.discarded = s.front.discarded ∧
    (actSetStopCount d s).merge.dwell = s.merge.dwell ∧
    (actSetStopCount d s).merge.limit = s.merge.limit ∧
    (actSetStopCount d s).merge.quantum = s.merge.quantum ∧
    (actSetStopCount d s).merge.window = s.merge.window ∧
    (actSetStopCount d s).merge.start = s.merge.start ∧
    (actSetStopCount d s).merge.filter = s.merge.filter ∧
    (actSetStopCount d s).jrn.oldest = s.jrn.oldest ∧
    (actSetStopCount d s).jrn.wrapped = s.jrn.wrapped ∧
    (actSetStopCount d s).jrn.wholeSpan = s.jrn.wholeSpan ∧
    (actSetStopCount d s).jrn.marks = s.jrn.marks ∧
    (actSetStopCount d s).jrn.walk = s.jrn.walk ∧
    (actSetStopCount d s).stager.cur = s.stager.cur := by
  refine ⟨?_, ?_, ?_, ?_, ?_, ?_, ?_, ?_, ?_, ?_, ?_, ?_, ?_, ?_, ?_, ?_, ?_, ?_⟩ <;> simp only [actSetStopCount]
  all_goals (try simp)

@[simp] theorem placeSet_fields (i : Nat) (lp : LatePolicy) (a : Bool) (s : State) :
    (placeSet i lp a s).ntc.consumed = s.ntc.consumed ∧
    (placeSet i lp a s).ntc.mask = s.ntc.mask ∧
    (placeSet i lp a s).ntc.lineEn = s.ntc.lineEn ∧
    (placeSet i lp a s).ntc.works = s.ntc.works ∧
    (placeSet i lp a s).ntc.status = s.ntc.status ∧
    (placeSet i lp a s).front.offsets = s.front.offsets ∧
    (placeSet i lp a s).front.discarded = s.front.discarded ∧
    (placeSet i lp a s).merge.dwell = s.merge.dwell ∧
    (placeSet i lp a s).merge.limit = s.merge.limit ∧
    (placeSet i lp a s).merge.quantum = s.merge.quantum ∧
    (placeSet i lp a s).merge.window = s.merge.window ∧
    (placeSet i lp a s).merge.start = s.merge.start ∧
    (placeSet i lp a s).merge.filter = s.merge.filter := by
  refine ⟨?_, ?_, ?_, ?_, ?_, ?_, ?_, ?_, ?_, ?_, ?_, ?_, ?_⟩ <;> simp only [placeSet]
  all_goals (repeat' split)
  all_goals (try simp)

@[simp] theorem actSetChannel_fields (d : List Byte) (s : State) :
    (actSetChannel d s).ntc.consumed = s.ntc.consumed ∧
    (actSetChannel d s).ntc.mask = s.ntc.mask ∧
    (actSetChannel d s).ntc.lineEn = s.ntc.lineEn ∧
    (actSetChannel d s).ntc.works = s.ntc.works ∧
    (actSetChannel d s).ntc.status = s.ntc.status ∧
    (actSetChannel d s).front.offsets = s.front.offsets ∧
    (actSetChannel d s).front.discarded = s.front.discarded ∧
    (actSetChannel d s).merge.dwell = s.merge.dwell ∧
    (actSetChannel d s).merge.limit = s.merge.limit ∧
    (actSetChannel d s).merge.quantum = s.merge.quantum ∧
    (actSetChannel d s).merge.window = s.merge.window ∧
    (actSetChannel d s).merge.start = s.merge.start ∧
    (actSetChannel d s).merge.filter = s.merge.filter := by
  refine ⟨?_, ?_, ?_, ?_, ?_, ?_, ?_, ?_, ?_, ?_, ?_, ?_, ?_⟩ <;> simp only [actSetChannel]
  all_goals (repeat' split)
  all_goals (try simp)

@[simp] theorem dropBottom_fields (s : State) :
    (dropBottom  s).ntc.consumed = s.ntc.consumed ∧
    (dropBottom  s).ntc.mask = s.ntc.mask ∧
    (dropBottom  s).ntc.lineEn = s.ntc.lineEn ∧
    (dropBottom  s).ntc.works = s.ntc.works ∧
    (dropBottom  s).ntc.status = s.ntc.status ∧
    (dropBottom  s).jrn.head = s.jrn.head ∧
    (dropBottom  s).jrn.oldest = s.jrn.oldest ∧
    (dropBottom  s).jrn.wrapped = s.jrn.wrapped ∧
    (dropBottom  s).jrn.wholeSpan = s.jrn.wholeSpan ∧
    (dropBottom  s).jrn.geCount = s.jrn.geCount ∧
    (dropBottom  s).jrn.geps = s.jrn.geps ∧
    (dropBottom  s).jrn.inq = s.jrn.inq ∧
    (dropBottom  s).jrn.wrapRead = s.jrn.wrapRead ∧
    (dropBottom  s).jrn.walk = s.jrn.walk ∧
    (dropBottom  s).jrn.nextTok = s.jrn.nextTok := by
  refine ⟨?_, ?_, ?_, ?_, ?_, ?_, ?_, ?_, ?_, ?_, ?_, ?_, ?_, ?_, ?_⟩ <;> simp only [dropBottom]
  all_goals (repeat' split)
  all_goals (try simp)

@[simp] theorem pushMark_fields (s : State) :
    (pushMark  s).ntc.consumed = s.ntc.consumed ∧
    (pushMark  s).ntc.mask = s.ntc.mask ∧
    (pushMark  s).ntc.lineEn = s.ntc.lineEn ∧
    (pushMark  s).ntc.works = s.ntc.works ∧
    (pushMark  s).ntc.status = s.ntc.status ∧
    (pushMark  s).jrn.head = s.jrn.head ∧
    (pushMark  s).jrn.oldest = s.jrn.oldest ∧
    (pushMark  s).jrn.wrapped = s.jrn.wrapped ∧
    (pushMark  s).jrn.wholeSpan = s.jrn.wholeSpan ∧
    (pushMark  s).jrn.geCount = s.jrn.geCount ∧
    (pushMark  s).jrn.geps = s.jrn.geps ∧
    (pushMark  s).jrn.inq = s.jrn.inq ∧
    (pushMark  s).jrn.wrapRead = s.jrn.wrapRead ∧
    (pushMark  s).jrn.walk = s.jrn.walk ∧
    (pushMark  s).jrn.nextTok = s.jrn.nextTok := by
  refine ⟨?_, ?_, ?_, ?_, ?_, ?_, ?_, ?_, ?_, ?_, ?_, ?_, ?_, ?_, ?_⟩ <;> simp only [pushMark]
  all_goals (try simp)

@[simp] theorem actMark_fields (s : State) :
    (actMark  s).ntc.consumed = s.ntc.consumed ∧
    (actMark  s).ntc.mask = s.ntc.mask ∧
    (actMark  s).ntc.lineEn = s.ntc.lineEn ∧
    (actMark  s).ntc.works = s.ntc.works ∧
    (actMark  s).ntc.status = s.ntc.status ∧
    (actMark  s).jrn.head = s.jrn.head ∧
    (actMark  s).jrn.oldest = s.jrn.oldest ∧
    (actMark  s).jrn.wrapped = s.jrn.wrapped ∧
    (actMark  s).jrn.wholeSpan = s.jrn.wholeSpan ∧
    (actMark  s).jrn.geCount = s.jrn.geCount ∧
    (actMark  s).jrn.geps = s.jrn.geps ∧
    (actMark  s).jrn.inq = s.jrn.inq ∧
    (actMark  s).jrn.wrapRead = s.jrn.wrapRead ∧
    (actMark  s).jrn.walk = s.jrn.walk ∧
    (actMark  s).jrn.nextTok = s.jrn.nextTok := by
  refine ⟨?_, ?_, ?_, ?_, ?_, ?_, ?_, ?_, ?_, ?_, ?_, ?_, ?_, ?_, ?_⟩ <;> simp only [actMark]
  all_goals (repeat' split)
  all_goals (try simp)

@[simp] theorem actDropMark_fields (s : State) :
    (actDropMark  s).ntc.produced = s.ntc.produced ∧
    (actDropMark  s).ntc.consumed = s.ntc.consumed ∧
    (actDropMark  s).ntc.discarded = s.ntc.discarded ∧
    (actDropMark  s).ntc.overflow = s.ntc.overflow ∧
    (actDropMark  s).ntc.mask = s.ntc.mask ∧
    (actDropMark  s).ntc.lineEn = s.ntc.lineEn ∧
    (actDropMark  s).ntc.works = s.ntc.works ∧
    (actDropMark  s).ntc.status = s.ntc.status ∧
    (actDropMark  s).jrn.head = s.jrn.head ∧
    (actDropMark  s).jrn.oldest = s.jrn.oldest ∧
    (actDropMark  s).jrn.wrapped = s.jrn.wrapped ∧
    (actDropMark  s).jrn.wholeSpan = s.jrn.wholeSpan ∧
    (actDropMark  s).jrn.geCount = s.jrn.geCount ∧
    (actDropMark  s).jrn.geps = s.jrn.geps ∧
    (actDropMark  s).jrn.inq = s.jrn.inq ∧
    (actDropMark  s).jrn.wrapRead = s.jrn.wrapRead ∧
    (actDropMark  s).jrn.nextTok = s.jrn.nextTok := by
  refine ⟨?_, ?_, ?_, ?_, ?_, ?_, ?_, ?_, ?_, ?_, ?_, ?_, ?_, ?_, ?_, ?_, ?_⟩ <;> simp only [actDropMark]
  all_goals (repeat' split)
  all_goals (try simp)

@[simp] theorem willRewind_fields (w : Walk) (s : State) :
    (willRewind w s).cmd.n = s.cmd.n ∧
    (willRewind w s).cmd.pend = s.cmd.pend := by
  refine ⟨?_, ?_⟩ <;> simp only [willRewind]
  all_goals (try simp)

@[simp] theorem actRewind_fields (d : List Byte) (s : State) :
    (actRewind d s).ntc.produced = s.ntc.produced ∧
    (actRewind d s).ntc.consumed = s.ntc.consumed ∧
    (actRewind d s).ntc.discarded = s.ntc.discarded ∧
    (actRewind d s).ntc.overflow = s.ntc.overflow ∧
    (actRewind d s).ntc.mask = s.ntc.mask ∧
    (actRewind d s).ntc.lineEn = s.ntc.lineEn ∧
    (actRewind d s).ntc.works = s.ntc.works ∧
    (actRewind d s).ntc.status = s.ntc.status := by
  refine ⟨?_, ?_, ?_, ?_, ?_, ?_, ?_, ?_⟩ <;> simp only [actRewind]
  all_goals (repeat' split)
  all_goals (try simp)

@[simp] theorem actStepBack_fields (d : List Byte) (s : State) :
    (actStepBack d s).ntc.produced = s.ntc.produced ∧
    (actStepBack d s).ntc.consumed = s.ntc.consumed ∧
    (actStepBack d s).ntc.discarded = s.ntc.discarded ∧
    (actStepBack d s).ntc.overflow = s.ntc.overflow ∧
    (actStepBack d s).ntc.mask = s.ntc.mask ∧
    (actStepBack d s).ntc.lineEn = s.ntc.lineEn ∧
    (actStepBack d s).ntc.works = s.ntc.works ∧
    (actStepBack d s).ntc.status = s.ntc.status := by
  refine ⟨?_, ?_, ?_, ?_, ?_, ?_, ?_, ?_⟩ <;> simp only [actStepBack]
  all_goals (repeat' split)
  all_goals (try simp)

@[simp] theorem changeWatch_fields (slot : BitVec 5) (w : Option Watch) (s : State) :
    (changeWatch slot w s).ntc.produced = s.ntc.produced ∧
    (changeWatch slot w s).ntc.consumed = s.ntc.consumed ∧
    (changeWatch slot w s).ntc.discarded = s.ntc.discarded ∧
    (changeWatch slot w s).ntc.overflow = s.ntc.overflow ∧
    (changeWatch slot w s).ntc.mask = s.ntc.mask ∧
    (changeWatch slot w s).ntc.lineEn = s.ntc.lineEn ∧
    (changeWatch slot w s).ntc.works = s.ntc.works ∧
    (changeWatch slot w s).ntc.status = s.ntc.status ∧
    (changeWatch slot w s).commit.flag = s.commit.flag ∧
    (changeWatch slot w s).commit.fly = s.commit.fly := by
  refine ⟨?_, ?_, ?_, ?_, ?_, ?_, ?_, ?_, ?_, ?_⟩ <;> simp only [changeWatch]
  all_goals (try simp)

@[simp] theorem actWatchSet_fields (d : List Byte) (s : State) :
    (actWatchSet d s).ntc.produced = s.ntc.produced ∧
    (actWatchSet d s).ntc.consumed = s.ntc.consumed ∧
    (actWatchSet d s).ntc.discarded = s.ntc.discarded ∧
    (actWatchSet d s).ntc.overflow = s.ntc.overflow ∧
    (actWatchSet d s).ntc.mask = s.ntc.mask ∧
    (actWatchSet d s).ntc.lineEn = s.ntc.lineEn ∧
    (actWatchSet d s).ntc.works = s.ntc.works ∧
    (actWatchSet d s).ntc.status = s.ntc.status ∧
    (actWatchSet d s).commit.flag = s.commit.flag ∧
    (actWatchSet d s).commit.fly = s.commit.fly := by
  refine ⟨?_, ?_, ?_, ?_, ?_, ?_, ?_, ?_, ?_, ?_⟩ <;> simp only [actWatchSet]
  all_goals (repeat' split)
  all_goals (try simp)

@[simp] theorem actWatchClear_fields (d : List Byte) (s : State) :
    (actWatchClear d s).ntc.produced = s.ntc.produced ∧
    (actWatchClear d s).ntc.consumed = s.ntc.consumed ∧
    (actWatchClear d s).ntc.discarded = s.ntc.discarded ∧
    (actWatchClear d s).ntc.overflow = s.ntc.overflow ∧
    (actWatchClear d s).ntc.mask = s.ntc.mask ∧
    (actWatchClear d s).ntc.lineEn = s.ntc.lineEn ∧
    (actWatchClear d s).ntc.works = s.ntc.works ∧
    (actWatchClear d s).ntc.status = s.ntc.status ∧
    (actWatchClear d s).commit.flag = s.commit.flag ∧
    (actWatchClear d s).commit.fly = s.commit.fly := by
  refine ⟨?_, ?_, ?_, ?_, ?_, ?_, ?_, ?_, ?_, ?_⟩ <;> simp only [actWatchClear]
  all_goals (repeat' split)
  all_goals (try simp)

@[simp] theorem startCapture_fields (a b : Nat) (l : List Nat) (s : State) :
    (startCapture a b l s).cmd.n = s.cmd.n ∧
    (startCapture a b l s).cmd.pend = s.cmd.pend := by
  refine ⟨?_, ?_⟩
  · have h := foldl_keeps (fun u : State => u.cmd.n) (fun u a => genRead .holdRead a 64 u) (fun _ _ => by simp)
    simp only [startCapture]
    repeat' split
    all_goals simp [h]
  · have h := foldl_keeps (fun u : State => u.cmd.pend) (fun u a => genRead .holdRead a 64 u) (fun _ _ => by simp)
    simp only [startCapture]
    repeat' split
    all_goals simp [h]

@[simp] theorem actSetPresentation_fields (d : List Byte) (s : State) :
    (actSetPresentation d s).ntc.produced = s.ntc.produced ∧
    (actSetPresentation d s).ntc.consumed = s.ntc.consumed ∧
    (actSetPresentation d s).ntc.discarded = s.ntc.discarded ∧
    (actSetPresentation d s).ntc.overflow = s.ntc.overflow ∧
    (actSetPresentation d s).ntc.mask = s.ntc.mask ∧
    (actSetPresentation d s).ntc.lineEn = s.ntc.lineEn ∧
    (actSetPresentation d s).ntc.works = s.ntc.works ∧
    (actSetPresentation d s).ntc.status = s.ntc.status := by
  refine ⟨?_, ?_, ?_, ?_, ?_, ?_, ?_, ?_⟩ <;> simp only [actSetPresentation]
  all_goals (repeat' split)
  all_goals (try simp)

@[simp] theorem finishCapture_fields (g : Regions) (a b : Nat) (s : State) :
    (finishCapture g a b s).ntc.produced = s.ntc.produced ∧
    (finishCapture g a b s).ntc.consumed = s.ntc.consumed ∧
    (finishCapture g a b s).ntc.discarded = s.ntc.discarded ∧
    (finishCapture g a b s).ntc.overflow = s.ntc.overflow ∧
    (finishCapture g a b s).ntc.mask = s.ntc.mask ∧
    (finishCapture g a b s).ntc.lineEn = s.ntc.lineEn ∧
    (finishCapture g a b s).ntc.works = s.ntc.works ∧
    (finishCapture g a b s).ntc.status = s.ntc.status := by
  refine ⟨?_, ?_, ?_, ?_, ?_, ?_, ?_, ?_⟩ <;> simp only [finishCapture]
  all_goals (try simp)

@[simp] theorem actSetDwell_fields (d : List Byte) (s : State) :
    (actSetDwell d s).ntc.produced = s.ntc.produced ∧
    (actSetDwell d s).ntc.consumed = s.ntc.consumed ∧
    (actSetDwell d s).ntc.discarded = s.ntc.discarded ∧
    (actSetDwell d s).ntc.overflow = s.ntc.overflow ∧
    (actSetDwell d s).ntc.mask = s.ntc.mask ∧
    (actSetDwell d s).ntc.lineEn = s.ntc.lineEn ∧
    (actSetDwell d s).ntc.works = s.ntc.works ∧
    (actSetDwell d s).ntc.status = s.ntc.status := by
  refine ⟨?_, ?_, ?_, ?_, ?_, ?_, ?_, ?_⟩ <;> simp only [actSetDwell]
  all_goals (repeat' split)
  all_goals (try simp)

@[simp] theorem actSetOverridePolicy_fields (d : List Byte) (s : State) :
    (actSetOverridePolicy d s).ntc.produced = s.ntc.produced ∧
    (actSetOverridePolicy d s).ntc.consumed = s.ntc.consumed ∧
    (actSetOverridePolicy d s).ntc.discarded = s.ntc.discarded ∧
    (actSetOverridePolicy d s).ntc.overflow = s.ntc.overflow ∧
    (actSetOverridePolicy d s).ntc.mask = s.ntc.mask ∧
    (actSetOverridePolicy d s).ntc.lineEn = s.ntc.lineEn ∧
    (actSetOverridePolicy d s).ntc.works = s.ntc.works ∧
    (actSetOverridePolicy d s).ntc.status = s.ntc.status := by
  refine ⟨?_, ?_, ?_, ?_, ?_, ?_, ?_, ?_⟩ <;> simp only [actSetOverridePolicy]
  all_goals (repeat' split)
  all_goals (try simp)

@[simp] theorem actReleaseOverride_fields (d : List Byte) (s : State) :
    (actReleaseOverride d s).ntc.produced = s.ntc.produced ∧
    (actReleaseOverride d s).ntc.consumed = s.ntc.consumed ∧
    (actReleaseOverride d s).ntc.discarded = s.ntc.discarded ∧
    (actReleaseOverride d s).ntc.overflow = s.ntc.overflow ∧
    (actReleaseOverride d s).ntc.mask = s.ntc.mask ∧
    (actReleaseOverride d s).ntc.lineEn = s.ntc.lineEn ∧
    (actReleaseOverride d s).ntc.works = s.ntc.works ∧
    (actReleaseOverride d s).ntc.status = s.ntc.status := by
  refine ⟨?_, ?_, ?_, ?_, ?_, ?_, ?_, ?_⟩ <;> simp only [actReleaseOverride]
  all_goals (repeat' split)
  all_goals (try simp)

@[simp] theorem answerQuery_fields (p : PointNo) (s : State) :
    (answerQuery p s).ntc.produced = s.ntc.produced ∧
    (answerQuery p s).ntc.consumed = s.ntc.consumed ∧
    (answerQuery p s).ntc.discarded = s.ntc.discarded ∧
    (answerQuery p s).ntc.overflow = s.ntc.overflow ∧
    (answerQuery p s).ntc.mask = s.ntc.mask ∧
    (answerQuery p s).ntc.lineEn = s.ntc.lineEn ∧
    (answerQuery p s).ntc.works = s.ntc.works ∧
    (answerQuery p s).ntc.status = s.ntc.status := by
  refine ⟨?_, ?_, ?_, ?_, ?_, ?_, ?_, ?_⟩ <;> simp only [answerQuery]
  all_goals (try simp)

@[simp] theorem actQueryPoint_fields (d : List Byte) (s : State) :
    (actQueryPoint d s).ntc.produced = s.ntc.produced ∧
    (actQueryPoint d s).ntc.consumed = s.ntc.consumed ∧
    (actQueryPoint d s).ntc.discarded = s.ntc.discarded ∧
    (actQueryPoint d s).ntc.overflow = s.ntc.overflow ∧
    (actQueryPoint d s).ntc.mask = s.ntc.mask ∧
    (actQueryPoint d s).ntc.lineEn = s.ntc.lineEn ∧
    (actQueryPoint d s).ntc.works = s.ntc.works ∧
    (actQueryPoint d s).ntc.status = s.ntc.status := by
  refine ⟨?_, ?_, ?_, ?_, ?_, ?_, ?_, ?_⟩ <;> simp only [actQueryPoint]
  all_goals (repeat' split)
  all_goals (try simp)

@[simp] theorem endWait_fields (w : WaitCmd) (s : State) :
    (endWait w s).ntc.consumed = s.ntc.consumed ∧
    (endWait w s).ntc.mask = s.ntc.mask ∧
    (endWait w s).ntc.lineEn = s.ntc.lineEn ∧
    (endWait w s).ntc.works = s.ntc.works ∧
    (endWait w s).front.offsets = s.front.offsets ∧
    (endWait w s).front.discarded = s.front.discarded ∧
    (endWait w s).merge.dwell = s.merge.dwell ∧
    (endWait w s).merge.limit = s.merge.limit ∧
    (endWait w s).merge.quantum = s.merge.quantum ∧
    (endWait w s).merge.window = s.merge.window ∧
    (endWait w s).merge.start = s.merge.start ∧
    (endWait w s).merge.filter = s.merge.filter ∧
    (endWait w s).jrn.head = s.jrn.head ∧
    (endWait w s).jrn.oldest = s.jrn.oldest ∧
    (endWait w s).jrn.wrapped = s.jrn.wrapped ∧
    (endWait w s).jrn.wholeSpan = s.jrn.wholeSpan ∧
    (endWait w s).jrn.geCount = s.jrn.geCount ∧
    (endWait w s).jrn.geps = s.jrn.geps ∧
    (endWait w s).jrn.inq = s.jrn.inq ∧
    (endWait w s).jrn.wrapRead = s.jrn.wrapRead ∧
    (endWait w s).jrn.nextTok = s.jrn.nextTok ∧
    (endWait w s).commit.flag = s.commit.flag ∧
    (endWait w s).commit.fly = s.commit.fly := by
  refine ⟨?_, ?_, ?_, ?_, ?_, ?_, ?_, ?_, ?_, ?_, ?_, ?_, ?_, ?_, ?_, ?_, ?_, ?_, ?_, ?_, ?_, ?_, ?_⟩ <;> simp only [endWait]
  all_goals (repeat' split)
  all_goals (try simp)

@[simp] theorem judgeChan_fields (r : Req) (s : State) (i : Nat) :
    (judgeChan r s i).ntc.consumed = s.ntc.consumed ∧
    (judgeChan r s i).ntc.mask = s.ntc.mask ∧
    (judgeChan r s i).ntc.lineEn = s.ntc.lineEn ∧
    (judgeChan r s i).ntc.works = s.ntc.works ∧
    (judgeChan r s i).ntc.status = s.ntc.status := by
  refine ⟨?_, ?_, ?_, ?_, ?_⟩ <;> simp only [judgeChan]
  all_goals (repeat' split)
  all_goals (try simp)

@[simp] theorem takeChan_fields (r : Req) (s : State) (i : Nat) :
    (takeChan r s i).ntc.consumed = s.ntc.consumed ∧
    (takeChan r s i).ntc.mask = s.ntc.mask ∧
    (takeChan r s i).ntc.lineEn = s.ntc.lineEn ∧
    (takeChan r s i).ntc.works = s.ntc.works ∧
    (takeChan r s i).ntc.status = s.ntc.status ∧
    (takeChan r s i).front.offsets = s.front.offsets ∧
    (takeChan r s i).front.discarded = s.front.discarded := by
  refine ⟨?_, ?_, ?_, ?_, ?_, ?_, ?_⟩ <;> simp only [takeChan]
  all_goals (repeat' split)
  all_goals (try simp)

@[simp] theorem takeConsumed_fields (x : Word32) (s : State) :
    (takeConsumed x s).ntc.discarded = s.ntc.discarded ∧
    (takeConsumed x s).ntc.mask = s.ntc.mask ∧
    (takeConsumed x s).ntc.lineEn = s.ntc.lineEn ∧
    (takeConsumed x s).ntc.works = s.ntc.works ∧
    (takeConsumed x s).ntc.status = s.ntc.status := by
  refine ⟨?_, ?_, ?_, ?_, ?_⟩ <;> simp only [takeConsumed]
  all_goals (repeat' split)
  all_goals (try simp)

@[simp] theorem takeOwner_fields (i : BitVec 5) (b : Bool) (s : State) :
    (takeOwner i b s).cmd.n = s.cmd.n := by
  simp only [takeOwner]
  repeat' split
  all_goals (try simp)

@[simp] theorem postRefusal_fields (f : Fwd) (s : State) :
    (postRefusal f s).ntc.consumed = s.ntc.consumed ∧
    (postRefusal f s).ntc.mask = s.ntc.mask ∧
    (postRefusal f s).ntc.lineEn = s.ntc.lineEn ∧
    (postRefusal f s).ntc.works = s.ntc.works ∧
    (postRefusal f s).ntc.status = s.ntc.status := by
  refine ⟨?_, ?_, ?_, ?_, ?_⟩
  · have h := foldl_keeps (fun u : State => u.ntc.consumed) (judgeChan f.req) (fun _ _ => by simp)
    unfold postRefusal
    repeat' split
    all_goals simp [h]
  · have h := foldl_keeps (fun u : State => u.ntc.mask) (judgeChan f.req) (fun _ _ => by simp)
    unfold postRefusal
    repeat' split
    all_goals simp [h]
  · have h := foldl_keeps (fun u : State => u.ntc.lineEn) (judgeChan f.req) (fun _ _ => by simp)
    unfold postRefusal
    repeat' split
    all_goals simp [h]
  · have h := foldl_keeps (fun u : State => u.ntc.works) (judgeChan f.req) (fun _ _ => by simp)
    unfold postRefusal
    repeat' split
    all_goals simp [h]
  · have h := foldl_keeps (fun u : State => u.ntc.status) (judgeChan f.req) (fun _ _ => by simp)
    unfold postRefusal
    repeat' split
    all_goals simp [h]

@[simp] theorem takeFields_fields (f : Fwd) (s : State) :
    (takeFields f s).ntc.mask = s.ntc.mask ∧
    (takeFields f s).ntc.lineEn = s.ntc.lineEn ∧
    (takeFields f s).ntc.works = s.ntc.works ∧
    (takeFields f s).ntc.status = s.ntc.status ∧
    (takeFields f s).front.offsets = s.front.offsets ∧
    (takeFields f s).front.discarded = s.front.discarded ∧
    (takeFields f s).merge.dwell = s.merge.dwell ∧
    (takeFields f s).merge.limit = s.merge.limit ∧
    (takeFields f s).merge.quantum = s.merge.quantum ∧
    (takeFields f s).merge.window = s.merge.window ∧
    (takeFields f s).merge.start = s.merge.start ∧
    (takeFields f s).merge.filter = s.merge.filter ∧
    (takeFields f s).cmd.n = s.cmd.n := by
  refine ⟨?_, ?_, ?_, ?_, ?_, ?_, ?_, ?_, ?_, ?_, ?_, ?_, ?_⟩
  · have h := foldl_keeps (fun u : State => u.ntc.mask) (takeChan f.req) (fun _ _ => by simp)
    simp only [takeFields]
    repeat' split
    all_goals simp [h]
  · have h := foldl_keeps (fun u : State => u.ntc.lineEn) (takeChan f.req) (fun _ _ => by simp)
    simp only [takeFields]
    repeat' split
    all_goals simp [h]
  · have h := foldl_keeps (fun u : State => u.ntc.works) (takeChan f.req) (fun _ _ => by simp)
    simp only [takeFields]
    repeat' split
    all_goals simp [h]
  · have h := foldl_keeps (fun u : State => u.ntc.status) (takeChan f.req) (fun _ _ => by simp)
    simp only [takeFields]
    repeat' split
    all_goals simp [h]
  · have h := foldl_keeps (fun u : State => u.front.offsets) (takeChan f.req) (fun _ _ => by simp)
    simp only [takeFields]
    repeat' split
    all_goals simp [h]
  · have h := foldl_keeps (fun u : State => u.front.discarded) (takeChan f.req) (fun _ _ => by simp)
    simp only [takeFields]
    repeat' split
    all_goals simp [h]
  · have h := foldl_keeps (fun u : State => u.merge.dwell) (takeChan f.req) (fun _ _ => by simp)
    simp only [takeFields]
    repeat' split
    all_goals simp [h]
  · have h := foldl_keeps (fun u : State => u.merge.limit) (takeChan f.req) (fun _ _ => by simp)
    simp only [takeFields]
    repeat' split
    all_goals simp [h]
  · have h := foldl_keeps (fun u : State => u.merge.quantum) (takeChan f.req) (fun _ _ => by simp)
    simp only [takeFields]
    repeat' split
    all_goals simp [h]
  · have h := foldl_keeps (fun u : State => u.merge.window) (takeChan f.req) (fun _ _ => by simp)
    simp only [takeFields]
    repeat' split
    all_goals simp [h]
  · have h := foldl_keeps (fun u : State => u.merge.start) (takeChan f.req) (fun _ _ => by simp)
    simp only [takeFields]
    repeat' split
    all_goals simp [h]
  · have h := foldl_keeps (fun u : State => u.merge.filter) (takeChan f.req) (fun _ _ => by simp)
    simp only [takeFields]
    repeat' split
    all_goals simp [h]
  · have h := foldl_keeps (fun u : State => u.cmd.n) (takeChan f.req) (fun _ _ => by simp)
    simp only [takeFields]
    repeat' split
    all_goals simp [h]

@[simp] theorem captureWords_fields (g : Regions) (ws : List WriteWord) (s : State) :
    ((captureWords g ws s).1).ntc.consumed = s.ntc.consumed ∧
    ((captureWords g ws s).1).ntc.mask = s.ntc.mask ∧
    ((captureWords g ws s).1).ntc.lineEn = s.ntc.lineEn ∧
    ((captureWords g ws s).1).ntc.works = s.ntc.works ∧
    ((captureWords g ws s).1).ntc.status = s.ntc.status := by
  refine ⟨?_, ?_, ?_, ?_, ?_⟩
  · have h := foldl_keeps (fun u : State => u.ntc.consumed) captureOne (fun _ _ => by simp)
    simp only [captureWords]
    repeat' split
    all_goals simp [h]
  · have h := foldl_keeps (fun u : State => u.ntc.mask) captureOne (fun _ _ => by simp)
    simp only [captureWords]
    repeat' split
    all_goals simp [h]
  · have h := foldl_keeps (fun u : State => u.ntc.lineEn) captureOne (fun _ _ => by simp)
    simp only [captureWords]
    repeat' split
    all_goals simp [h]
  · have h := foldl_keeps (fun u : State => u.ntc.works) captureOne (fun _ _ => by simp)
    simp only [captureWords]
    repeat' split
    all_goals simp [h]
  · have h := foldl_keeps (fun u : State => u.ntc.status) captureOne (fun _ _ => by simp)
    simp only [captureWords]
    repeat' split
    all_goals simp [h]

@[simp] theorem takeWindowWrite_fields (r : Req) (s : State) :
    (takeWindowWrite r s).ntc.consumed = s.ntc.consumed ∧
    (takeWindowWrite r s).ntc.mask = s.ntc.mask ∧
    (takeWindowWrite r s).ntc.lineEn = s.ntc.lineEn ∧
    (takeWindowWrite r s).ntc.works = s.ntc.works ∧
    (takeWindowWrite r s).ntc.status = s.ntc.status := by
  refine ⟨?_, ?_, ?_, ?_, ?_⟩ <;> simp only [takeWindowWrite]
  all_goals (repeat' split)
  all_goals (try simp)

end Sys2Proof.Machine
end

