-- ==== Sys2Proof/Laws/Own.lean ====
section
/-! SUPPORT. The operations that leave the memory path but for own requests they add. -/

namespace Sys2Proof.Machine

theorem keepsPath_updFront (s : State) (f : Front → Front) : KeepsPath s (s.updFront f) := (KeepsPath.refl s).congr rfl
theorem keepsPath_updMerge (s : State) (f : Merge → Merge) : KeepsPath s (s.updMerge f) := (KeepsPath.refl s).congr rfl
theorem keepsPath_updStager (s : State) (f : Stager → Stager) : KeepsPath s (s.updStager f) := (KeepsPath.refl s).congr rfl
theorem keepsPath_updCommit (s : State) (f : Commit → Commit) : KeepsPath s (s.updCommit f) := (KeepsPath.refl s).congr rfl
theorem keepsPath_updLane (s : State) (f : Timeline → Timeline) : KeepsPath s (s.updLane f) := (KeepsPath.refl s).congr rfl
theorem keepsPath_updJrn (s : State) (f : Journal → Journal) : KeepsPath s (s.updJrn f) := (KeepsPath.refl s).congr rfl
theorem keepsPath_updCmd (s : State) (f : CmdProc → CmdProc) : KeepsPath s (s.updCmd f) := (KeepsPath.refl s).congr rfl
theorem keepsPath_updNtc (s : State) (f : NoticeUnit → NoticeUnit) : KeepsPath s (s.updNtc f) := (KeepsPath.refl s).congr rfl
theorem keepsPath_setDir (d : List DirEntry) (s : State) : KeepsPath s (s.setDir d) := (KeepsPath.refl s).congr rfl
theorem keepsPath_setOvr (d : List OvrEntry) (s : State) : KeepsPath s (s.setOvr d) := (KeepsPath.refl s).congr rfl
theorem keepsPath_setImg (d : Option ImgPass) (s : State) : KeepsPath s (s.setImg d) := (KeepsPath.refl s).congr rfl
theorem keepsPath_setChan (s : State) (i : Nat) (f : Chan → Chan) : KeepsPath s (s.setChan i f) := (KeepsPath.refl s).congr rfl
theorem keepsPath_setDirAt (s : State) (p : PointNo) (f : DirEntry → DirEntry) : KeepsPath s (s.setDirAt p f) := (KeepsPath.refl s).congr rfl
theorem keepsPath_markDue (s : State) : KeepsPath s (s.markDue) := (KeepsPath.refl s).congr rfl
theorem keepsPath_updFly (s : State) (f : Flight → Flight) : KeepsPath s (s.updFly f) := (KeepsPath.refl s).congr rfl
theorem keepsPath_updWalk (s : State) (f : Walk → Walk) : KeepsPath s (s.updWalk f) := (KeepsPath.refl s).congr rfl
theorem keepsPath_updPend (s : State) (f : Pend → Pend) : KeepsPath s (s.updPend f) := (KeepsPath.refl s).congr rfl
theorem keepsPath_setWall (n : Nat) (s : State) : KeepsPath s (s.setWall n) := (KeepsPath.refl s).congr rfl

theorem keepsPath_lagChan (s : State) (i : Nat) : KeepsPath s (lagChan s i) := by
  simp only [lagChan]
  repeat' split
  all_goals repeat (with_reducible first | exact KeepsPath.refl _ | refine KeepsPath.trans ?_ (keepsPath_post ..) | refine KeepsPath.trans ?_ (keepsPath_setChan ..) | refine KeepsPath.trans ?_ (keepsPath_markDue ..))

theorem keepsPath_paceTick (s : State) : KeepsPath s (paceTick s) := by
  simp only [paceTick]
  repeat' split
  all_goals repeat (with_reducible first | exact KeepsPath.refl _ | refine KeepsPath.trans ?_ (keepsPath_updLane ..))

theorem keepsPath_starveTick (s : State) : KeepsPath s (starveTick s) := by
  simp only [starveTick]
  repeat' split
  all_goals repeat (with_reducible first | exact KeepsPath.refl _ | refine KeepsPath.trans ?_ (keepsPath_updMerge ..))

theorem keepsPath_admitLate (s : State) : KeepsPath s (admitLate s) :=
  KeepsPath.trans ((KeepsPath.refl s).congr rfl) (keepsPath_settle _)

theorem keepsPath_admitTimed (tg : Nat) (s : State) : KeepsPath s (admitTimed tg s) := by
  refine KeepsPath.trans ((KeepsPath.refl s).congr ?_) (keepsPath_settle _)
  split <;> rfl

theorem keepsPath_endFormation (b : Bool) (s : State) : KeepsPath s (endFormation b s) := by
  simp only [endFormation]
  repeat (with_reducible first | exact KeepsPath.refl _ | refine KeepsPath.trans ?_ (keepsPath_updCommit ..))

theorem keepsPath_splitGroup (s : State) : KeepsPath s (splitGroup s) := by
  simp only [splitGroup]
  repeat' split
  all_goals repeat (with_reducible first | exact KeepsPath.refl _ | refine KeepsPath.trans ?_ (keepsPath_post ..))

theorem keepsPath_stage (it : Item) (s : State) : KeepsPath s (stage it s) := by
  simp only [stage]
  repeat (with_reducible first | exact KeepsPath.refl _ | refine KeepsPath.trans ?_ (keepsPath_updStager ..))

theorem keepsPath_holdChange (i : Nat) (r : Rec) (cls : BitVec 2) (s : State) : KeepsPath s (holdChange i r cls s) := by
  simp only [holdChange]
  repeat (with_reducible first | exact KeepsPath.refl _ | refine KeepsPath.trans ?_ (keepsPath_handLoose ..) | refine KeepsPath.trans ?_ (keepsPath_takeChecked ..) | refine KeepsPath.trans ?_ (keepsPath_updMerge ..))

theorem keepsPath_supersedeChange (i : Nat) (r : Rec) (e : DwellEntry) (s : State) : KeepsPath s (supersedeChange i r e s) := by
  simp only [supersedeChange]
  repeat (with_reducible first | exact KeepsPath.refl _ | refine KeepsPath.trans ?_ (keepsPath_handLoose ..) | refine KeepsPath.trans ?_ (keepsPath_takeChecked ..) | refine KeepsPath.trans ?_ (keepsPath_updMerge ..))

theorem keepsPath_repeatChange (i : Nat) (r : Rec) (w : PointWord) (s : State) : KeepsPath s (repeatChange i r w s) := by
  simp only [repeatChange]
  repeat (with_reducible first | exact KeepsPath.refl _ | refine KeepsPath.trans ?_ (keepsPath_handLoose ..) | refine KeepsPath.trans ?_ (keepsPath_takeChecked ..))

theorem keepsPath_readFilter (i : Nat) (r : Rec) (cls : BitVec 2) (b : Bool) (s : State) : KeepsPath s (readFilter i r cls b s) := by
  simp only [readFilter]
  repeat (with_reducible first | exact KeepsPath.refl _ | refine KeepsPath.trans ?_ (keepsPath_genRead ..) | refine KeepsPath.trans ?_ (keepsPath_updMerge ..))

theorem keepsPath_acceptRecord (i : Nat) (ts ct : Time) (seq : Word32) (a : BitVec 64) (s : State) : KeepsPath s (acceptRecord i ts ct seq a s) := by
  simp only [acceptRecord]
  repeat' split
  all_goals repeat (with_reducible first | exact KeepsPath.refl _ | refine KeepsPath.trans ?_ (keepsPath_post ..) | refine KeepsPath.trans ?_ (keepsPath_setChan ..))

theorem keepsPath_freePlace (i n : Nat) (s : State) : KeepsPath s (freePlace i n s) := by
  simp only [freePlace]
  repeat (with_reducible first | exact KeepsPath.refl _ | refine KeepsPath.trans ?_ (keepsPath_setChan ..))

theorem keepsPath_keepRecord (i n : Nat) (r : Rec) (s : State) : KeepsPath s (keepRecord i n r s) := by
  simp only [keepRecord]
  repeat (with_reducible first | exact KeepsPath.refl _ | refine KeepsPath.trans ?_ (keepsPath_setChan ..))

theorem keepsPath_looseWritten (phys : ChanNo) (tok : Nat) (s : State) : KeepsPath s (looseWritten phys tok s) := by
  simp only [looseWritten]
  repeat' split
  all_goals repeat (with_reducible first | exact KeepsPath.refl _ | refine KeepsPath.trans ?_ (keepsPath_moveCursor ..) | refine KeepsPath.trans ?_ (keepsPath_setChan ..))

theorem keepsPath_overwriteOldest (e : Option JEntry) (b : Bool) (s : State) : KeepsPath s (overwriteOldest e b s) := by
  simp only [overwriteOldest]
  repeat' split
  all_goals repeat (with_reducible first | exact KeepsPath.refl _ | refine KeepsPath.trans ?_ (keepsPath_updJrn ..) | refine KeepsPath.trans ?_ (keepsPath_setChan ..) | refine KeepsPath.trans ?_ (keepsPath_markDue ..))

theorem keepsPath_nextItem (s : State) : KeepsPath s (nextItem s) := by
  simp only [nextItem]
  repeat' split
  all_goals repeat (with_reducible first | exact KeepsPath.refl _ | refine KeepsPath.trans ?_ (keepsPath_genRead ..) | refine KeepsPath.trans ?_ (keepsPath_handIn ..) | refine KeepsPath.trans ?_ (keepsPath_updFly ..))

theorem keepsPath_commitWord (p : PointNo) (a b : PointWord) (s : State) : KeepsPath s (commitWord p a b s) := by
  simp only [commitWord]
  repeat (with_reducible first | exact KeepsPath.refl _ | refine KeepsPath.trans ?_ (keepsPath_genWrite ..) | refine KeepsPath.trans ?_ (keepsPath_updFly ..))

theorem keepsPath_handGroup (e : JEntry) (s : State) : KeepsPath s (handGroup e s) := by
  simp only [handGroup]
  repeat (with_reducible first | exact KeepsPath.refl _ | refine KeepsPath.trans ?_ (keepsPath_handIn ..))

theorem keepsPath_endOnce (it : Item) (p : PointNo) (s : State) : KeepsPath s (endOnce it p s) := by
  simp only [endOnce]
  repeat' split
  all_goals repeat (with_reducible first | exact KeepsPath.refl _ | refine KeepsPath.trans ?_ (keepsPath_post ..) | refine KeepsPath.trans ?_ (keepsPath_setOvr ..))

theorem keepsPath_postHit (f : Flight) (g : Word32) (s : State) (k : Nat) : KeepsPath s (postHit f g s k) := by
  simp only [postHit]
  repeat' split
  all_goals repeat (with_reducible first | exact KeepsPath.refl _ | refine KeepsPath.trans ?_ (keepsPath_post ..))

theorem keepsPath_countStop (s : State) : KeepsPath s ((countStop s).1) := by
  simp only [countStop]
  repeat' split
  all_goals repeat (with_reducible first | exact KeepsPath.refl _ | refine KeepsPath.trans ?_ (keepsPath_postLane ..) | refine KeepsPath.trans ?_ (keepsPath_updLane ..))

theorem keepsPath_countStep (s : State) : KeepsPath s ((countStep s).1) := by
  simp only [countStep]
  repeat' split
  all_goals repeat (with_reducible first | exact KeepsPath.refl _ | refine KeepsPath.trans ?_ (keepsPath_updLane ..))

theorem keepsPath_stepDone (s : State) : KeepsPath s (stepDone s) := by
  simp only [stepDone]
  repeat (with_reducible first | exact KeepsPath.refl _ | refine KeepsPath.trans ?_ (keepsPath_postLane ..) | refine KeepsPath.trans ?_ (keepsPath_stopLane ..))

theorem keepsPath_advanceGroup (f : Flight) (s : State) : KeepsPath s (advanceGroup f s) := by
  simp only [advanceGroup]
  repeat' split
  all_goals repeat (with_reducible first | exact KeepsPath.refl _ | refine KeepsPath.trans ?_ (keepsPath_rejudgeAll ..) | refine KeepsPath.trans ?_ (keepsPath_moveCursors ..) | refine KeepsPath.trans ?_ (keepsPath_updStager ..) | refine KeepsPath.trans ?_ (keepsPath_updLane ..))

theorem keepsPath_stopNotices (s : State) : KeepsPath s (stopNotices s) := by
  simp only [stopNotices]
  repeat (with_reducible first | exact KeepsPath.refl _ | refine KeepsPath.trans ?_ (keepsPath_updNtc ..))

theorem keepsPath_passMarks (s : State) : KeepsPath s (passMarks s) := by
  simp only [passMarks]
  repeat' split
  all_goals repeat (with_reducible first | exact KeepsPath.refl _ | refine KeepsPath.trans ?_ (keepsPath_updJrn ..) | refine KeepsPath.trans ?_ (keepsPath_markDue ..))

theorem keepsPath_resumeChannels (s : State) : KeepsPath s (resumeChannels s) := by
  simp only [resumeChannels]
  repeat (with_reducible first | exact KeepsPath.refl _ | refine KeepsPath.trans ?_ (keepsPath_recomputeAll ..) | refine KeepsPath.trans ?_ (keepsPath_updFront ..))

theorem keepsPath_postRewindEnded (w : Walk) (x : RewindOutcome) (s : State) : KeepsPath s (postRewindEnded w x s) := by
  simp only [postRewindEnded]
  repeat (with_reducible first | exact KeepsPath.refl _ | refine KeepsPath.trans ?_ (keepsPath_postLane ..))

theorem keepsPath_flushHeads (s : State) : KeepsPath s (flushHeads s) := by
  simp only [flushHeads]
  repeat (with_reducible first | exact KeepsPath.refl _ | refine KeepsPath.trans ?_ (keepsPath_discardFetches ..) | refine KeepsPath.trans ?_ (keepsPath_updFront ..))

theorem keepsPath_readEntry (s : State) : KeepsPath s (readEntry s) := by
  simp only [readEntry]
  repeat (with_reducible first | exact KeepsPath.refl _ | refine KeepsPath.trans ?_ (keepsPath_genRead ..) | refine KeepsPath.trans ?_ (keepsPath_updWalk ..))

theorem keepsPath_undoWord (p : PointNo) (a b : PointWord) (s : State) : KeepsPath s (undoWord p a b s) := by
  simp only [undoWord]
  repeat (with_reducible first | exact KeepsPath.refl _ | refine KeepsPath.trans ?_ (keepsPath_genWrite ..) | refine KeepsPath.trans ?_ (keepsPath_updWalk ..))

theorem keepsPath_reinsert (e : DwellEntry) (s : State) : KeepsPath s (reinsert e s) := by
  simp only [reinsert]
  repeat (with_reducible first | exact KeepsPath.refl _ | refine KeepsPath.trans ?_ (keepsPath_updMerge ..))

theorem keepsPath_takeCursorBack (e : JEntry) (s : State) : KeepsPath s (takeCursorBack e s) := by
  simp only [takeCursorBack]
  repeat' split
  all_goals repeat (with_reducible first | exact KeepsPath.refl _ | refine KeepsPath.trans ?_ (keepsPath_setChan ..))

theorem keepsPath_headBack (s : State) : KeepsPath s (headBack s) := by
  simp only [headBack]
  repeat (with_reducible first | exact KeepsPath.refl _ | refine KeepsPath.trans ?_ (keepsPath_updJrn ..))

theorem keepsPath_readBefore (e : JEntry) (p : PointNo) (s : State) : KeepsPath s (readBefore e p s) := by
  simp only [readBefore]
  repeat (with_reducible first | exact KeepsPath.refl _ | refine KeepsPath.trans ?_ (keepsPath_genRead ..) | refine KeepsPath.trans ?_ (keepsPath_updWalk ..))

theorem keepsPath_startValidation (s : State) : KeepsPath s (startValidation s) := by
  simp only [startValidation]
  repeat (with_reducible first | exact KeepsPath.refl _ | refine KeepsPath.trans ?_ (keepsPath_genRead ..) | refine KeepsPath.trans ?_ (keepsPath_updCmd ..))

theorem keepsPath_judgeConfigure (a : List (Nat × Option (List Byte))) (b : List (ChanNo × Option (List Byte))) (s : State) : KeepsPath s (judgeConfigure a b s) := by
  simp only [judgeConfigure]
  repeat' split
  all_goals repeat (with_reducible first | exact KeepsPath.refl _ | refine KeepsPath.trans ?_ (keepsPath_complete ..) | refine KeepsPath.trans ?_ (keepsPath_updCmd ..))

theorem keepsPath_imgAccess (s : State) : KeepsPath s (imgAccess s) := by
  simp only [imgAccess]
  repeat' split
  all_goals repeat (with_reducible first | exact KeepsPath.refl _ | refine KeepsPath.trans ?_ (keepsPath_genRead ..) | refine KeepsPath.trans ?_ (keepsPath_genWrite ..))

theorem keepsPath_startLane (s : State) : KeepsPath s (startLane s) := by
  simp only [startLane]
  repeat' split
  all_goals repeat (with_reducible first | exact KeepsPath.refl _ | refine KeepsPath.trans ?_ (keepsPath_holdOn ..) | refine KeepsPath.trans ?_ (keepsPath_endHistory ..))

theorem keepsPath_reportEnd (s : State) : KeepsPath s (reportEnd s) := by
  simp only [reportEnd]
  repeat' split
  all_goals repeat (with_reducible first | exact KeepsPath.refl _ | refine KeepsPath.trans ?_ (keepsPath_endHistory ..))

theorem keepsPath_laneAnswer (s : State) : KeepsPath s (laneAnswer s) := by
  simp only [laneAnswer]
  repeat (with_reducible first | exact KeepsPath.refl _ | refine KeepsPath.trans ?_ (keepsPath_complete ..))

theorem keepsPath_stopAnswer (n : Nat) (s : State) : KeepsPath s (stopAnswer n s) := by
  simp only [stopAnswer]
  repeat (with_reducible first | exact KeepsPath.refl _ | refine KeepsPath.trans ?_ (keepsPath_complete ..))

theorem keepsPath_dropBottom (s : State) : KeepsPath s (dropBottom s) := by
  simp only [dropBottom]
  repeat' split
  all_goals repeat (with_reducible first | exact KeepsPath.refl _ | refine KeepsPath.trans ?_ (keepsPath_postLane ..) | refine KeepsPath.trans ?_ (keepsPath_updJrn ..))

theorem keepsPath_actDropMark (s : State) : KeepsPath s (actDropMark s) := by
  simp only [actDropMark]
  repeat' split
  all_goals repeat (with_reducible first | exact KeepsPath.refl _ | refine KeepsPath.trans ?_ (keepsPath_complete ..) | refine KeepsPath.trans ?_ (keepsPath_updJrn ..) | refine KeepsPath.trans ?_ (keepsPath_updWalk ..))

theorem keepsPath_willRewind (w : Walk) (s : State) : KeepsPath s (willRewind w s) := by
  simp only [willRewind]
  repeat (with_reducible first | exact KeepsPath.refl _ | refine KeepsPath.trans ?_ (keepsPath_updCmd ..))

theorem keepsPath_changeWatch (slot : BitVec 5) (w : Option Watch) (s : State) : KeepsPath s (changeWatch slot w s) := by
  simp only [changeWatch]
  repeat (with_reducible first | exact KeepsPath.refl _ | refine KeepsPath.trans ?_ (keepsPath_complete ..) | refine KeepsPath.trans ?_ (keepsPath_updCommit ..))

theorem keepsPath_setSelector (a b : Nat) (f : Nat → Selector) (s : State) : KeepsPath s (setSelector a b f s) := by
  simp only [setSelector]
  repeat (with_reducible first | exact KeepsPath.refl _ | refine KeepsPath.trans ?_ (keepsPath_setDir ..))

theorem keepsPath_actSetDwell (d : List Byte) (s : State) : KeepsPath s (actSetDwell d s) := by
  simp only [actSetDwell]
  repeat' split
  all_goals repeat (with_reducible first | exact KeepsPath.refl _ | refine KeepsPath.trans ?_ (keepsPath_complete ..) | refine KeepsPath.trans ?_ (keepsPath_badParam ..) | refine KeepsPath.trans ?_ (keepsPath_setDir ..))

theorem keepsPath_actSetOverridePolicy (d : List Byte) (s : State) : KeepsPath s (actSetOverridePolicy d s) := by
  simp only [actSetOverridePolicy]
  repeat' split
  all_goals repeat (with_reducible first | exact KeepsPath.refl _ | refine KeepsPath.trans ?_ (keepsPath_complete ..) | refine KeepsPath.trans ?_ (keepsPath_badParam ..) | refine KeepsPath.trans ?_ (keepsPath_setDir ..))

theorem keepsPath_actReleaseOverride (d : List Byte) (s : State) : KeepsPath s (actReleaseOverride d s) := by
  simp only [actReleaseOverride]
  repeat' split
  all_goals repeat (with_reducible first | exact KeepsPath.refl _ | refine KeepsPath.trans ?_ (keepsPath_complete ..) | refine KeepsPath.trans ?_ (keepsPath_badParam ..) | refine KeepsPath.trans ?_ (keepsPath_setOvr ..))

theorem keepsPath_answerQuery (p : PointNo) (s : State) : KeepsPath s (answerQuery p s) := by
  simp only [answerQuery]
  repeat (with_reducible first | exact KeepsPath.refl _ | refine KeepsPath.trans ?_ (keepsPath_complete ..))

theorem keepsPath_takeChan (r : Req) (s : State) (i : Nat) : KeepsPath s (takeChan r s i) := by
  simp only [takeChan]
  repeat' split
  all_goals repeat (with_reducible first | exact KeepsPath.refl _ | refine KeepsPath.trans ?_ (keepsPath_recomputeChan ..) | refine KeepsPath.trans ?_ (keepsPath_setChan ..))

theorem keepsPath_takeConsumed (x : Word32) (s : State) : KeepsPath s (takeConsumed x s) := by
  simp only [takeConsumed]
  repeat' split
  all_goals repeat (with_reducible first | exact KeepsPath.refl _ | refine KeepsPath.trans ?_ (keepsPath_drainOverflow ..) | refine KeepsPath.trans ?_ (keepsPath_holdOff ..) | refine KeepsPath.trans ?_ (keepsPath_updNtc ..))

theorem keepsPath_takeOwner (i : BitVec 5) (b : Bool) (s : State) : KeepsPath s (takeOwner i b s) := by
  simp only [takeOwner]
  repeat' split
  all_goals repeat (with_reducible first | exact KeepsPath.refl _ | refine KeepsPath.trans ?_ (keepsPath_beginSlot ..) | refine KeepsPath.trans ?_ (keepsPath_updCmd ..))

theorem keepsPath_captureOne (s : State) (w : WriteWord) : KeepsPath s (captureOne s w) := by
  simp only [captureOne]
  repeat' split
  all_goals repeat (with_reducible first | exact KeepsPath.refl _ | refine KeepsPath.trans ?_ (keepsPath_setOvr ..))

theorem keepsPath_pullRelease (e : DwellEntry) (s : State) : KeepsPath s (pullRelease e s) := by
  simp only [pullRelease]
  repeat' split
  all_goals repeat (with_reducible first | exact KeepsPath.refl _ | refine KeepsPath.trans ?_ (keepsPath_updMerge ..) | refine KeepsPath.trans ?_ (keepsPath_splitGroup ..) | refine KeepsPath.trans ?_ (keepsPath_stage ..))

theorem keepsPath_pullItem (i : Nat) (r : Rec) (it : Item) (s : State) : KeepsPath s (pullItem i r it s) := by
  simp only [pullItem]
  repeat' split
  all_goals repeat (with_reducible first | exact KeepsPath.refl _ | refine KeepsPath.trans ?_ (keepsPath_takeChecked ..) | refine KeepsPath.trans ?_ (keepsPath_splitGroup ..) | refine KeepsPath.trans ?_ (keepsPath_stage ..))

theorem keepsPath_takeUnfiltered (i : Nat) (r : Rec) (s : State) : KeepsPath s (takeUnfiltered i r s) := by
  simp only [takeUnfiltered]
  repeat' split
  all_goals repeat (with_reducible first | exact KeepsPath.refl _ | refine KeepsPath.trans ?_ (keepsPath_post ..) | refine KeepsPath.trans ?_ (keepsPath_takeChecked ..) | refine KeepsPath.trans ?_ (keepsPath_splitGroup ..) | refine KeepsPath.trans ?_ (keepsPath_stage ..))

theorem keepsPath_revertChange (i : Nat) (r : Rec) (e : DwellEntry) (s : State) : KeepsPath s (revertChange i r e s) := by
  simp only [revertChange]
  repeat' split
  all_goals repeat (with_reducible first | exact KeepsPath.refl _ | refine KeepsPath.trans ?_ (keepsPath_takeChecked ..) | refine KeepsPath.trans ?_ (keepsPath_updMerge ..) | refine KeepsPath.trans ?_ (keepsPath_splitGroup ..) | refine KeepsPath.trans ?_ (keepsPath_stage ..))

theorem keepsPath_disposeRecord (i n : Nat) (r : Rec) (s : State) : KeepsPath s (disposeRecord i n r s) := by
  simp only [disposeRecord]
  repeat' split
  all_goals repeat (with_reducible first | exact KeepsPath.refl _ | refine KeepsPath.trans ?_ (keepsPath_handLoose ..) | refine KeepsPath.trans ?_ (keepsPath_lateRecord ..) | refine KeepsPath.trans ?_ (keepsPath_rejoin ..) | refine KeepsPath.trans ?_ (keepsPath_freePlace ..) | refine KeepsPath.trans ?_ (keepsPath_keepRecord ..))

theorem keepsPath_beginCommit (s : State) : KeepsPath s (beginCommit s) := by
  simp only [beginCommit]
  repeat (with_reducible first | exact KeepsPath.refl _ | refine KeepsPath.trans ?_ (keepsPath_updCommit ..) | refine KeepsPath.trans ?_ (keepsPath_updFly ..) | refine KeepsPath.trans ?_ (keepsPath_nextItem ..))

theorem keepsPath_commitChatter (it : Item) (p : PointNo) (h : HeldItem) (rel : Time) (old : PointWord) (s : State) : KeepsPath s (commitChatter it p h rel old s) := by
  simp only [commitChatter]
  repeat (with_reducible first | exact KeepsPath.refl _ | refine KeepsPath.trans ?_ (keepsPath_commitWord ..) | refine KeepsPath.trans ?_ (keepsPath_handGroup ..))

theorem keepsPath_commitMarker (it : Item) (p : PointNo) (v : Word32) (a : BitVec 64) (s : State) : KeepsPath s (commitMarker it p v a s) := by
  simp only [commitMarker]
  repeat (with_reducible first | exact KeepsPath.refl _ | refine KeepsPath.trans ?_ (keepsPath_post ..) | refine KeepsPath.trans ?_ (keepsPath_handGroup ..))

theorem keepsPath_beginStep (s : State) : KeepsPath s (beginStep s) := by
  simp only [beginStep]
  repeat (with_reducible first | exact KeepsPath.refl _ | refine KeepsPath.trans ?_ (keepsPath_updCommit ..) | refine KeepsPath.trans ?_ (keepsPath_updWalk ..) | refine KeepsPath.trans ?_ (keepsPath_readEntry ..))

theorem keepsPath_stepOn (s : State) : KeepsPath s (stepOn s) := by
  simp only [stepOn]
  repeat' split
  all_goals repeat (with_reducible first | exact KeepsPath.refl _ | refine KeepsPath.trans ?_ (keepsPath_updWalk ..) | refine KeepsPath.trans ?_ (keepsPath_stepDone ..) | refine KeepsPath.trans ?_ (keepsPath_readEntry ..))

theorem keepsPath_actConfigure (s : State) : KeepsPath s (actConfigure s) := by
  simp only [actConfigure]
  repeat' split
  all_goals repeat (with_reducible first | exact KeepsPath.refl _ | refine KeepsPath.trans ?_ (keepsPath_waitFor ..) | refine KeepsPath.trans ?_ (keepsPath_startValidation ..))

theorem keepsPath_pushMark (s : State) : KeepsPath s (pushMark s) := by
  simp only [pushMark]
  repeat (with_reducible first | exact KeepsPath.refl _ | refine KeepsPath.trans ?_ (keepsPath_complete ..) | refine KeepsPath.trans ?_ (keepsPath_updJrn ..) | refine KeepsPath.trans ?_ (keepsPath_dropBottom ..))

theorem keepsPath_actRewind (d : List Byte) (s : State) : KeepsPath s (actRewind d s) := by
  simp only [actRewind]
  repeat' split
  all_goals repeat (with_reducible first | exact KeepsPath.refl _ | refine KeepsPath.trans ?_ (keepsPath_complete ..) | refine KeepsPath.trans ?_ (keepsPath_badParam ..) | refine KeepsPath.trans ?_ (keepsPath_willRewind ..))

theorem keepsPath_actStepBack (d : List Byte) (s : State) : KeepsPath s (actStepBack d s) := by
  simp only [actStepBack]
  repeat' split
  all_goals repeat (with_reducible first | exact KeepsPath.refl _ | refine KeepsPath.trans ?_ (keepsPath_complete ..) | refine KeepsPath.trans ?_ (keepsPath_badParam ..) | refine KeepsPath.trans ?_ (keepsPath_willRewind ..))

theorem keepsPath_filterDecision (i : Nat) (r : Rec) (cls : BitVec 2) (v : Word32) (s : State) : KeepsPath s (filterDecision i r cls v s) := by
  simp only [filterDecision]
  repeat' split
  all_goals repeat (with_reducible first | exact KeepsPath.refl _ | refine KeepsPath.trans ?_ (keepsPath_holdChange ..) | refine KeepsPath.trans ?_ (keepsPath_supersedeChange ..) | refine KeepsPath.trans ?_ (keepsPath_pullItem ..) | refine KeepsPath.trans ?_ (keepsPath_takeUnfiltered ..) | refine KeepsPath.trans ?_ (keepsPath_revertChange ..))

theorem keepsPath_filterRecord (i : Nat) (r : Rec) (cls : BitVec 2) (s : State) : KeepsPath s (filterRecord i r cls s) := by
  simp only [filterRecord]
  repeat' split
  all_goals repeat (with_reducible first | exact KeepsPath.refl _ | refine KeepsPath.trans ?_ (keepsPath_readFilter ..) | refine KeepsPath.trans ?_ (keepsPath_filterDecision ..))

theorem keepsPath_pullHead (i : Nat) (r : Rec) (s : State) : KeepsPath s (pullHead i r s) := by
  simp only [pullHead]
  repeat' split
  all_goals repeat (with_reducible first | exact KeepsPath.refl _ | refine KeepsPath.trans ?_ (keepsPath_pullItem ..) | refine KeepsPath.trans ?_ (keepsPath_filterRecord ..))

theorem keepsPath_pull (c : Option (Key × Source)) (s : State) : KeepsPath s (pull c s) := by
  simp only [pull]
  repeat' split
  all_goals repeat (with_reducible first | exact KeepsPath.refl _ | refine KeepsPath.trans ?_ (keepsPath_endFormation ..) | refine KeepsPath.trans ?_ (keepsPath_pullRelease ..) | refine KeepsPath.trans ?_ (keepsPath_pullHead ..))

theorem keepsPath_transferAll (s : State) : KeepsPath s (transferAll s) :=
  (keepsPath_transferSettings s).trans (keepsPath_transferSkews _)

theorem keepsPath_settingTaken (s : State) : KeepsPath s (settingTaken s) := by
  unfold settingTaken
  split
  · exact keepsPath_complete ..
  · exact ((keepsPath_transferAll s).trans (keepsPath_settle _)).trans (keepsPath_complete ..)

theorem keepsPath_startRun (m : RunMode) (s : State) : KeepsPath s (startRun m s) := by
  have h (f : Timeline → Timeline) : KeepsPath s (s.updLane f).markDue := (KeepsPath.refl s).congr rfl
  unfold startRun
  split
  · exact (h _).trans (keepsPath_startLane _)
  · exact (h _).trans (keepsPath_reportEnd _)
  · exact (h _).trans (keepsPath_reportEnd _)
  · exact (h _).trans (keepsPath_reportEnd _)
  all_goals exact KeepsPath.refl s

theorem keepsPath_startStep (n : Nat) (s : State) : KeepsPath s (startStep n s) := by
  have h (f : Timeline → Timeline) : KeepsPath s (s.updLane f).markDue := (KeepsPath.refl s).congr rfl
  unfold startStep
  split
  · exact (h _).trans (keepsPath_startLane _)
  · exact (h _).trans (keepsPath_reportEnd _)
  · exact (h _).trans (keepsPath_reportEnd _)
  · exact (h _).trans (keepsPath_reportEnd _)
  all_goals exact KeepsPath.refl s

theorem keepsPath_actRun (d : List Byte) (s : State) : KeepsPath s (actRun d s) := by
  unfold actRun
  repeat' split
  · exact keepsPath_badParam ..
  · exact keepsPath_complete ..
  · exact ((keepsPath_startRun _ s).trans (keepsPath_settle _)).trans (keepsPath_laneAnswer _)

theorem keepsPath_actStep (d : List Byte) (s : State) : KeepsPath s (actStep d s) := by
  simp only [actStep]
  repeat' split
  · exact keepsPath_badParam ..
  · exact keepsPath_complete ..
  · exact ((keepsPath_startStep _ s).trans (keepsPath_settle _)).trans (keepsPath_laneAnswer _)

theorem keepsPath_placeSet (i : Nat) (lp : LatePolicy) (a : Bool) (s : State) : KeepsPath s (placeSet i lp a s) := by
  simp only [placeSet]
  split
  · exact (keepsPath_setChan ..).trans (keepsPath_complete ..)
  · exact (((keepsPath_setChan ..).trans (keepsPath_applySet ..)).trans (keepsPath_settleKeep _)).trans (keepsPath_complete ..)

theorem keepsPath_applyItem (it : Item) (p : PointNo) (v : Word32) (q : BitVec 8) (u d : Bool) (a : Option (BitVec 64))
    (old : PointWord) (s : State) : KeepsPath s (applyItem it p v q u d a old s) := by
  unfold applyItem
  exact (((keepsPath_commitWord ..).trans (keepsPath_handGroup ..)).trans (keepsPath_setDirAt ..)).trans
    ((keepsPath_endOnce ..).trans (keepsPath_updFly ..))

theorem keepsPath_commitOne (it : Item) (old : PointWord) (s : State) : KeepsPath s (commitOne it old s) := by
  unfold commitOne
  split
  · unfold commitRecord
    split
    · exact (keepsPath_commitWord ..).trans (keepsPath_handGroup ..)
    · exact keepsPath_applyItem ..
  · exact keepsPath_applyItem ..
  · exact keepsPath_commitChatter ..
  · exact keepsPath_commitMarker ..

theorem keepsPath_finishRewind (w : Walk) (x : RewindOutcome) (s : State) : KeepsPath s (finishRewind w x s) := by
  unfold finishRewind
  exact ((((keepsPath_updLane ..).trans (keepsPath_resumeChannels _)).trans (keepsPath_updJrn ..)).trans
    ((keepsPath_transferSkews _).trans (keepsPath_stopLane _))).trans
    ((keepsPath_postRewindEnded ..).trans (keepsPath_settle _))

theorem keepsPath_walkOn (s : State) : KeepsPath s (walkOn s) := by
  unfold walkOn
  split
  · exact KeepsPath.refl s
  · split
    · exact keepsPath_finishRewind ..
    · split
      · exact keepsPath_finishRewind ..
      · exact keepsPath_updWalk ..

theorem keepsPath_reinsertRelease (p : PointNo) (pos : Pos) (lead : BitVec 16) (w : PointWord) (s : State) :
    KeepsPath s (reinsertRelease p pos lead w s) := (KeepsPath.refl s).congr (by simp)

theorem keepsPath_undoEffect (e : JEntry) (w : PointWord) (s : State) : KeepsPath s (undoEffect e w s) := by
  have wide (a b : PointWord) (p : PointNo) (u : State) : KeepsPath u (undoWord p a b u) := keepsPath_undoWord ..
  cases e with
  | applied ch pos p late unf rel oc og old lead =>
    refine KeepsPath.trans ?_ (((wide w old p _).trans (keepsPath_setDirAt ..)))
    split
    · exact keepsPath_reinsertRelease ..
    · exact KeepsPath.refl s
  | duplicate ch pos p old => exact wide ..
  | chatter ch pos p old h lead => exact (wide w old p s).trans ((KeepsPath.refl _).congr (reinsert_frame _ _).2.2.2.2.2.1)
  | _ => exact (KeepsPath.refl s).congr rfl

end Sys2Proof.Machine
end

