-- ==== Sys2Proof/Laws/Lane.lean ====
section
/-! SUPPORT. What holding, stopping and the end of an event leave of the lane, and that each keeps the lane HOLDING exactly when its
hold-reason set is non-empty. -/

namespace Sys2Proof.Machine

/-- The lane but for its state, its holds, C, the accumulator, the stop time and the step count. -/
structure Timeline.Settings (a b : Timeline) : Prop where
  r : b.r = a.r
  f : b.f = a.f
  group : b.group = a.group
  fault : b.fault = a.fault
  faultAddr : b.faultAddr = a.faultAddr
  pace : b.pace = a.pace
  stopCount : b.stopCount = a.stopCount
  reload : b.reload = a.reload
  pend : b.pend = a.pend
  runMode : b.runMode = a.runMode
  stepped : b.stepped = a.stepped

namespace Timeline

theorem Settings.refl (a : Timeline) : Settings a a := ⟨rfl, rfl, rfl, rfl, rfl, rfl, rfl, rfl, rfl, rfl, rfl⟩

theorem Settings.trans {a b c : Timeline} (h : Settings a b) (k : Settings b c) : Settings a c := by
  cases h; cases k; constructor <;> simp_all

theorem Settings.clock {a b : Timeline} (h : Settings a b) : a.keepsClock b := ⟨h.1, h.2, h.3, h.4, h.5⟩

theorem Settings.to {a b c : Timeline} (h : Settings a b) (e : c = b) : Settings a c := e ▸ h

theorem Settings.from {a b c : Timeline} (h : Settings a b) (e : c = a) : Settings c b := e ▸ h

theorem settings_addHold (w : HoldReason) (t : Timeline) : Settings t (t.addHold w) := by
  unfold Timeline.addHold; split <;> exact ⟨rfl, rfl, rfl, rfl, rfl, rfl, rfl, rfl, rfl, rfl, rfl⟩

theorem settings_dropHold (w : HoldReason) (t : Timeline) : Settings t (t.dropHold w) := by
  simp only [Timeline.dropHold]; split <;> exact ⟨rfl, rfl, rfl, rfl, rfl, rfl, rfl, rfl, rfl, rfl, rfl⟩

theorem settings_stopNow (t : Timeline) : Settings t t.stopNow := ⟨rfl, rfl, rfl, rfl, rfl, rfl, rfl, rfl, rfl, rfl, rfl⟩

end Timeline

theorem settings_holdOn (w : HoldReason) (s : State) : Timeline.Settings s.lane (holdOn w s).lane := by
  simp only [holdOn]
  split
  · split <;> exact (Timeline.settings_addHold w _).to (by simp)
  · exact .refl _

theorem settings_holdOff (w : HoldReason) (s : State) : Timeline.Settings s.lane (holdOff w s).lane := by
  unfold holdOff
  split
  · exact Timeline.settings_dropHold ..
  · exact .refl _

theorem settings_stopLane (s : State) : Timeline.Settings s.lane (stopLane s).lane := Timeline.settings_stopNow _

theorem settings_endHistory (s : State) : Timeline.Settings s.lane (endHistory s).lane :=
  (settings_stopLane s).to (by simp [endHistory])

theorem settings_endTest (s : State) : Timeline.Settings s.lane (endTest s).lane := by
  simp only [endTest]; split
  · exact (settings_endHistory _).from rfl
  · exact .refl _

theorem settings_stopTimeTest (s : State) : Timeline.Settings s.lane (stopTimeTest s).lane := by
  unfold stopTimeTest; split
  · exact .refl _
  · refine .trans ?_ (settings_holdOn ..)
    simp only [postLane_frame]; exact ⟨rfl, rfl, rfl, rfl, rfl, rfl, rfl, rfl, rfl, rfl, rfl⟩

theorem settings_laneTests (s : State) : Timeline.Settings s.lane (laneTests s).lane :=
  (settings_endTest s).trans (settings_stopTimeTest _)

theorem settings_anchorClear (s : State) : Timeline.Settings s.lane (anchorClear s).lane := by
  unfold anchorClear; split
  · exact .refl _
  · exact settings_holdOff ..

theorem settings_anchorResume (s : State) : Timeline.Settings s.lane (anchorResume s).lane := by
  simp only [anchorResume]; split
  · exact settings_anchorClear s
  · exact (settings_anchorClear s).trans (settings_laneTests _)

theorem settings_paceHold (s : State) : Timeline.Settings s.lane (paceHold s).lane := by
  unfold paceHold
  split
  · simp only [State.updLane_lane, Timeline.heldAt]
    split <;> exact ⟨rfl, rfl, rfl, rfl, rfl, rfl, rfl, rfl, rfl, rfl, rfl⟩
  · exact .refl _

theorem settings_settle (s : State) : Timeline.Settings s.lane (settle s).lane := by
  unfold settle
  refine Timeline.Settings.to (b := (paceHold (laneTests (anchorClear (recomputeLive s)))).lane) ?_ (by simp)
  exact (((settings_anchorClear (recomputeLive s)).trans (settings_laneTests _)).from (by simp)).trans (settings_paceHold _)

theorem settings_settleKeep (s : State) : Timeline.Settings s.lane (settleKeep s).lane := by
  unfold settleKeep
  refine Timeline.Settings.to (b := (paceHold (laneTests (recomputeLive s))).lane) ?_ (by simp)
  exact ((settings_laneTests (recomputeLive s)).from (by simp)).trans (settings_paceHold _)

@[simp] theorem settle_pend (s : State) : (settle s).lane.pend = s.lane.pend := (settings_settle s).pend

@[simp] theorem settleKeep_pend (s : State) : (settleKeep s).lane.pend = s.lane.pend := (settings_settleKeep s).pend

/-! ## HOLDING and the hold-reason set -/

namespace Timeline

theorem holdsOk_of_holding {t : Timeline} (a : t.lane = .holding) (b : t.holds.isEmpty = false) : t.holdsOk := by
  unfold Timeline.holdsOk; simp [a, b]

theorem holdsOk_of_none {t : Timeline} (a : t.lane ≠ .holding) (b : t.holds = Holds.none) : t.holdsOk := by
  have e : Holds.none.isEmpty = true := rfl
  unfold Timeline.holdsOk; rw [b]; simp [a, e]

theorem holdsOk_holds {t : Timeline} (h : t.holdsOk) (k : t.lane ≠ .holding) : t.holds = Holds.none := by
  have e : t.holds.isEmpty ≠ false := fun e => k (h.2 e)
  simp [Holds.isEmpty] at e
  cases hh : t.holds; simp_all [Holds.none]

theorem holdsOk_addHold (w : HoldReason) (t : Timeline) (h : t.holdsOk) : (t.addHold w).holdsOk := by
  have e (x : Holds) : (x.set w true).isEmpty = false := by cases w <;> simp [Holds.set, Holds.isEmpty]
  unfold Timeline.addHold
  split
  · exact holdsOk_of_holding rfl (e _)
  · exact holdsOk_of_holding rfl (e _)
  · rename_i k; exact holdsOk_of_holding (by simpa using k) (e _)
  · exact h

theorem holdsOk_dropHold (w : HoldReason) (t : Timeline) (h : t.holdsOk) : (t.dropHold w).holdsOk := by
  simp only [Timeline.dropHold]
  by_cases e : t.lane = .holding
  · by_cases k : (t.holds.set w false).isEmpty = true
    · rw [if_pos ⟨e, k⟩]
      refine holdsOk_of_none ?_ ?_
      · cases t.resume <;> simp [Timeline.goTo, Resume.lane]
      · generalize (t.holds.set w false) = x at *
        cases x; simp_all [Holds.isEmpty, Holds.none]
    · rw [if_neg (fun q => k q.2)]
      exact holdsOk_of_holding e (by simpa using k)
  · rw [if_neg (fun q => e q.1)]
    refine holdsOk_of_none e ?_
    simp [holdsOk_holds h e, Holds.set, Holds.none]; cases w <;> rfl

theorem holdsOk_stopNow (t : Timeline) : t.stopNow.holdsOk := holdsOk_of_none (by simp [Timeline.stopNow, Timeline.goTo]) rfl

end Timeline

theorem holdsOk_holdOn (w : HoldReason) (s : State) (h : s.lane.holdsOk) : (holdOn w s).lane.holdsOk := by
  unfold holdOn
  split
  · simp only
    split
    · simpa using Timeline.holdsOk_addHold w _ h
    · exact Timeline.holdsOk_addHold w _ h
  · exact h

theorem holdsOk_holdOff (w : HoldReason) (s : State) (h : s.lane.holdsOk) : (holdOff w s).lane.holdsOk := by
  unfold holdOff
  split
  · exact Timeline.holdsOk_dropHold w _ h
  · exact h

theorem holdsOk_stopLane (s : State) : (stopLane s).lane.holdsOk := Timeline.holdsOk_stopNow _

theorem holdsOk_endHistory (s : State) : (endHistory s).lane.holdsOk := by simpa [endHistory] using holdsOk_stopLane s

theorem holdsOk_endTest (s : State) (h : s.lane.holdsOk) : (endTest s).lane.holdsOk := by
  simp only [endTest]; split
  · exact holdsOk_endHistory _
  · exact h

theorem holdsOk_stopTimeTest (s : State) (h : s.lane.holdsOk) : (stopTimeTest s).lane.holdsOk := by
  unfold stopTimeTest; split
  · exact h
  · apply holdsOk_holdOn; simp only [postLane_frame]; exact h

theorem holdsOk_anchorClear (s : State) (h : s.lane.holdsOk) : (anchorClear s).lane.holdsOk := by
  unfold anchorClear; split
  · exact h
  · exact holdsOk_holdOff _ _ h

theorem holdsOk_laneTests (s : State) (h : s.lane.holdsOk) : (laneTests s).lane.holdsOk :=
  holdsOk_stopTimeTest _ (holdsOk_endTest _ h)

theorem holdsOk_anchorResume (s : State) (h : s.lane.holdsOk) : (anchorResume s).lane.holdsOk := by
  simp only [anchorResume]; split
  · exact holdsOk_anchorClear s h
  · exact holdsOk_laneTests _ (holdsOk_anchorClear s h)

theorem holdsOk_paceHold (s : State) (h : s.lane.holdsOk) : (paceHold s).lane.holdsOk := by
  unfold Timeline.holdsOk at *; simpa using h

theorem holdsOk_settle (s : State) (h : s.lane.holdsOk) : (settle s).lane.holdsOk := by
  have k : (recomputeLive s).lane.holdsOk := by simpa using h
  simpa [settle, laneTests] using holdsOk_paceHold _ (holdsOk_stopTimeTest _ (holdsOk_endTest _ (holdsOk_anchorClear _ k)))

theorem holdsOk_settleKeep (s : State) (h : s.lane.holdsOk) : (settleKeep s).lane.holdsOk := by
  have k : (recomputeLive s).lane.holdsOk := by simpa using h
  simpa [settleKeep, laneTests] using holdsOk_paceHold _ (holdsOk_stopTimeTest _ (holdsOk_endTest _ k))

/-! ## A lane that does not run -/

theorem endTest_lane {s : State} (h : s.running = false) : (endTest s).lane = s.lane := by simp [endTest, h]

theorem stopTimeTest_still {s : State} (h : s.running = false) : stopTimeTest s = s := by
  have e : s.stopTimeReached = none := by
    unfold State.stopTimeReached; split
    · simp [h]
    · rfl
  unfold stopTimeTest; rw [e]

theorem running_congr {s t : State} (h : t.lane = s.lane) : t.running = s.running := by unfold State.running; rw [h]

theorem laneTests_lane {s : State} (h : s.running = false) : (laneTests s).lane = s.lane := by
  unfold laneTests
  rw [stopTimeTest_still (by rw [running_congr (endTest_lane h)]; exact h), endTest_lane h]

theorem paced_eq {s : State} (h : s.paced = true) : s.lane.lane = .running := by
  simp only [State.paced, Bool.and_eq_true, beq_iff_eq] at h; exact h.1

/-- The accumulator of a lane that does not run stands as it is. -/
theorem paceHold_still {s : State} (h : s.running = false) : paceHold s = s := by
  unfold paceHold; split
  · next p => simp [State.running, paced_eq p] at h
  · rfl

/-- Once an event has ended, a limit at or below C leaves the accumulator 0 (R103). -/
theorem paceHold_acc (s : State) (h : (paceHold s).paced = true) (k : (paceHold s).paceLimit ≤ ((paceHold s).lane.c.toNat : Int)) :
    (paceHold s).lane.acc = 0 := by
  have p : s.paced = true := by simpa [State.paced] using h
  have l : (paceHold s).paceLimit = s.paceLimit := by simp [State.paceLimit, State.safe]
  rw [l] at k
  simp only [paceHold_lane] at k
  simp [paceHold, p, Timeline.heldAt, k]

theorem anchorClear_none {s : State} (h : s.lane.holds.anchorStarved = false) : anchorClear s = s := by
  simp [anchorClear, holdOff, Holds.has, h]

theorem anchorResume_none {s : State} (h : s.lane.holds.anchorStarved = false) : anchorResume s = s := by
  simp [anchorResume, anchorClear_none h]

/-- The end of an event leaves the lane that does not run and is not held for a starved anchor. -/
theorem settle_lane {s : State} (h : s.running = false) (k : s.lane.holds.anchorStarved = false) :
    (settle s).lane = s.lane := by
  have e : (recomputeLive s).lane = s.lane := by simp
  unfold settle
  rw [anchorClear_none (by rw [e]; exact k)]
  have g : (recomputeLive s).running = false := by rw [running_congr e]; exact h
  have f := laneTests_lane g
  rw [paceHold_still (by rw [running_congr f]; exact g)]
  simp [f]

theorem stopLane_lane (s : State) : (stopLane s).lane = s.lane.stopNow := rfl

/-- The end of an event leaves a lane that has stopped. -/
theorem settle_stopped {s : State} (h : s.lane.lane = .stopped) (k : s.lane.holds.anchorStarved = false) :
    (settle s).lane = s.lane := settle_lane (by simp [State.running, h]) k

/-- An event that may move the limit of C ends with the accumulator 0 where C stands at or above it (R103). -/
theorem settled_acc {s t : State} (h : t = settle s ∨ t = settleKeep s) (k : t.paced = true)
    (l : t.paceLimit ≤ (t.lane.c.toNat : Int)) : t.lane.acc = 0 := by
  obtain ⟨u, e⟩ : ∃ u, t = starveReset (paceHold u) := by rcases h with h | h <;> exact ⟨_, h⟩
  subst e
  have e1 : (starveReset (paceHold u)).paceLimit = (paceHold u).paceLimit := by simp [State.paceLimit, State.safe]
  rw [e1] at l
  simp only [starveReset_frame, State.paced] at k l ⊢
  exact paceHold_acc u k l

/-- The end of SET_CHANNEL leaves a lane that does not run. -/
theorem settleKeep_lane {s : State} (h : s.running = false) : (settleKeep s).lane = s.lane := by
  have e : (recomputeLive s).lane = s.lane := by simp
  have g : (recomputeLive s).running = false := by rw [running_congr e]; exact h
  have f := laneTests_lane g
  simp only [settleKeep]
  rw [paceHold_still (by rw [running_congr f]; exact g)]
  simp [f]

end Sys2Proof.Machine
end

