-- ==== Sys2Proof/Laws/Settle.lean ====
section
/-! SUPPORT. What the end of an event does to a lane that runs with no hold reason: it stops at the end of history, holds on the stop time,
or goes on; and what the standing tests see afterwards. -/

namespace Sys2Proof.Machine

theorem settle_front (s : State) : (settle s).front = (recomputeLive s).front := by simp [settle]
theorem settle_ended (s : State) : (settle s).historyEnded = (recomputeLive s).historyEnded := by
  simp [State.historyEnded, settle_front]
theorem settle_nextTg (s : State) : (settle s).nextTg = (recomputeLive s).nextTg := by
  have f : (settle s).lane.f = s.lane.f := by obtain ⟨_, h, _⟩ := (settings_settle s).clock; exact h
  simp [State.nextTg, State.timedItems, State.dwellKey, State.chanAt, settle_front, f]

theorem stopTimeReached_ended (s : State) (e : Bool) :
    (s.updMerge fun m => { m with ended := e }).stopTimeReached = s.stopTimeReached := rfl

theorem settle_lane_eq (s : State) (h : s.lane.holds = Holds.none) :
    (settle s).lane = (paceHold (laneTests (recomputeLive s))).lane := by
  have e : (recomputeLive s).lane = s.lane := by simp
  unfold settle
  rw [anchorClear_none (by rw [e, h]; rfl)]
  simp

/-- The end of history stops the lane. -/
theorem settle_end (s : State) (h : s.lane.holds = Holds.none) (r : s.running = true) (e : (recomputeLive s).historyEnded = true)
    (m : s.merge.ended = false) :
    (settle s).lane = s.lane.stopNow := by
  rw [settle_lane_eq s h]
  have l : (recomputeLive s).lane = s.lane := by simp
  have t : (endTest (recomputeLive s)).lane = s.lane.stopNow := by
    unfold endTest
    simp [e, m, running_congr l, r, endHistory, stopLane_lane]
  have n : (endTest (recomputeLive s)).running = false := by simp [State.running, t, Timeline.stopNow, Timeline.goTo]
  unfold laneTests
  rw [stopTimeTest_still n, paceHold_still n, t]

theorem endTest_none (s : State) (h : ¬ (s.historyEnded = true ∧ s.merge.ended = false)) :
    endTest s = s.updMerge fun m => { m with ended := s.historyEnded } := by
  unfold endTest
  simp only []
  rw [if_neg]
  simp only [Bool.and_eq_true, Bool.not_eq_true']
  exact fun x => h x.1

/-- No end of history and no stop time reached: only the accumulator may change. -/
theorem settle_stay (s : State) (h : s.lane.holds = Holds.none) (e : ¬ ((recomputeLive s).historyEnded = true ∧ s.merge.ended = false))
    (n : (recomputeLive s).stopTimeReached = none) : (settle s).lane = { s.lane with acc := (settle s).lane.acc } := by
  have l : (recomputeLive s).lane = s.lane := by simp
  have mm : (recomputeLive s).merge = s.merge := by simp
  rw [settle_lane_eq s h]
  unfold laneTests
  rw [endTest_none _ (by rw [mm]; exact e)]
  unfold stopTimeTest
  rw [stopTimeReached_ended, n]
  simp only [paceHold]
  split
  · simp only [State.updLane_lane, Timeline.heldAt]
    split <;> simp
  · simp

/-- The stop time holds the lane. -/
theorem settle_hold (s : State) (h : s.lane.holds = Holds.none) (r : s.running = true)
    (e : ¬ ((recomputeLive s).historyEnded = true ∧ s.merge.ended = false)) (st : Time) (tg : Nat)
    (n : (recomputeLive s).stopTimeReached = some (st, tg)) :
    (settle s).lane.lane = .holding ∧ (settle s).lane.holds = { Holds.none with stopTime := true } ∧ (settle s).lane.stopTime = none ∧
     (settle s).lane.c = (if s.lane.c.toNat < st.toNat then st else s.lane.c) ∧ (settle s).lane.resume.lane = s.lane.lane := by
  have l : (recomputeLive s).lane = s.lane := by simp
  have mm : (recomputeLive s).merge = s.merge := by simp
  rw [settle_lane_eq s h]
  unfold laneTests
  rw [endTest_none _ (by rw [mm]; exact e)]
  unfold stopTimeTest
  rw [stopTimeReached_ended, n]
  have rr : s.lane.lane = .running ∨ s.lane.lane = .stepping := by simpa [State.running] using r
  have k : ∀ v : State, v.lane.lane = s.lane.lane → v.lane.holds = Holds.none → (holdOn .stopTime v).lane = v.lane.addHold .stopTime := by
    intro v v1 v2
    unfold holdOn
    have c : v.canHold = true := by unfold State.canHold; rw [v1]; rcases rr with rr | rr <;> simp [rr]
    simp [c, v2, Holds.has, Holds.none, HoldReason.postsHold]
  simp only []
  have q := k (postLane (NBody.stopTime
          (((recomputeLive s).updMerge fun m => { m with ended := (recomputeLive s).historyEnded }).updLane fun t =>
                  { t with c := if t.c.toNat < st.toNat then st else t.c, stopTime := none }).lane.c st (BitVec.ofNat 48 tg))
        (((recomputeLive s).updMerge fun m => { m with ended := (recomputeLive s).historyEnded }).updLane fun t =>
                  { t with c := if t.c.toNat < st.toNat then st else t.c, stopTime := none })) (by simp) (by simp [h])
  rw [paceHold_still]
  · rw [q]
    simp only [postLane_frame, State.updLane_lane, State.updMerge_lane, l]
    unfold Timeline.addHold
    rcases rr with rr | rr <;> simp [rr, h, Timeline.goTo, Holds.set, Holds.none, Resume.lane]
  · unfold State.running
    rw [q]
    simp only [postLane_frame, State.updLane_lane, State.updMerge_lane, l]
    unfold Timeline.addHold
    rcases rr with rr | rr <;> simp [rr, Timeline.goTo]

theorem stopTimeReached_iff (s : State) (st : Time) (tg : Nat) : s.stopTimeReached = some (st, tg) ↔
    s.lane.stopTime = some st ∧ s.nextTg = some tg ∧ s.running = true ∧ s.commit.fly = none ∧ s.stager.late = [] ∧ st.toNat < tg ∧
      (s.lane.lane ≠ .running ∨ s.lane.runMode ≠ .paced ∨ st.toNat ≤ s.lane.c.toNat) := by
  unfold State.stopTimeReached
  constructor
  · intro h
    split at h
    · rename_i a b e1 e2
      split at h
      · rename_i k
        cases h
        simp at k
        simp [e1, e2, k]
        have := k.2
        rcases this with (x | x) | x
        · exact .inl x
        · exact .inr (.inl x)
        · exact .inr (.inr x)
      · cases h
    · cases h
  · rintro ⟨a, b, c, d, e, f, g⟩
    simp only [a, b]
    rw [if_pos]
    simp [c, d, e, f]
    rcases g with x | x | x
    · exact .inl (.inl x)
    · exact .inl (.inr x)
    · exact .inr x

end Sys2Proof.Machine
end

