-- ==== Sys2Proof/Laws/Steps.lean ====
section
/-! SUPPORT. What a step can do, said once: the state it answers is the state before, a reset, a µs of wall time, or one of the
operations of `Did` with the end of its event. An invariant is proved by cases on `Did`. -/

namespace Sys2Proof.Machine

/-- The operations an event or a command can perform, with the conditions that bound what they add. -/
inductive Did (s : State) : State → Prop
  | windowRead (r : Req) (c : FClass) : s.canTake = true → Did s (takeWindowRead r c s)
  | windowWrite (r : Req) : s.canTake = true → r.wf = true → Did s (takeWindowWrite r s)
  | refused (r : Req) : s.canTake = true → Did s (takeRefused r s)
  | forward (r : Req) : s.canTake = true → Did s (takeForward r s)
  | issueOwn (tag : BitVec 5) : Did s (s.updPath (Path.issueOwn tag))
  | issueFwd : Did s (s.updPath Path.issueFwd)
  | enqueue : Did s (s.updPath Path.enqueueWaiting)
  | answered (tag : BitVec 5) (f : Fwd) (r : Resp) :
      Did s ((s.updPath fun p => { p with outst := p.outst.eraseP (Outst.hasTag tag) }).updPath (Path.ready f.id r))
  | ownAnswered (tag : BitVec 5) (r : OwnReq) (st : MemStatus) (d : List Byte) :
      Did s (ownAnswer r st d (s.updPath fun p => { p with outst := p.outst.eraseP (Outst.hasTag tag) }))
  | sent (tag : BitVec 5) (r : Resp) :
      Did s (s.updPath fun p => { p with answers := p.answers.eraseP (fun a => a.tag == tag), procOut := some r })
  | judgedOk (f : Fwd) (rest : List Fwd) : s.path.fwd = f :: rest → s.headValid f = true →
      Did s (takeFields f (s.updPath Path.issueFwd))
  | judgedBad (f : Fwd) (rest : List Fwd) : s.path.fwd = f :: rest → Did s (refuseHead f (postRefusal f s))
  | fetch (i : Nat) (c : Chan) : s.chanAt i = some c → s.canFetch c = true → Did s (issueFetch i c s)
  | load (i : Nat) (c : Chan) (n : Nat) (pos : Pos) (r : Ret) : s.chanAt i = some c → c.nextLoad = some (n, pos) →
      Did s (settle (loadRecord i c n pos r s))
  | dropped (n : Nat) : Did s (dropDiscarded n s)
  | written (phys : ChanNo) (tok n : Nat) : Did s (looseWritten phys tok (s.updPath (Path.dropRet (Ret.isFor n))))
  | wrap (g : Regions) (r : Ret) : s.regions = some g → Did s (oldestReturned g r s)
  | expire : s.starved = true → Did s (expireStarvation s)
  | pace : Did s (settle (s.updLane (Timeline.advance s.paceLimit)))
  | late : s.offered = some .late → s.admits = true → Did s (admitLate s)
  | timed (tg : Nat) : s.offered = some (.timed tg) → s.admits = true → s.mayAdmit tg = true → Did s (admitTimed tg s)
  | pull (f : Flight) : s.forming = some f → Did s (settle (pull (s.candidate f) s))
  | filter (op : FilterOp) (r : Ret) : s.merge.filter = some op → Did s (settle (filterRead op r s))
  | begin (f : Flight) : s.announced = some f → Did s (beginCommit s)
  | item (f : Flight) (it : Item) (old : PointWord) : s.committing = some f → Did s (takeItem f it old s)
  | boundary (f : Flight) : s.endedFlight = some f → Did s (commitBoundary f s)
  | error (r : Ret) (code : FaultCode) : Did s (ownError r code s)
  | restored : Did s (clearFlight s)
  | start (w : Walk) : s.cmd.phase = .starting w → Did s (startRewind w s)
  | stepBegin (w : Walk) : s.walkIn .announced = some w → Did s (beginStep s)
  | undo (w : Walk) (r : Ret) : s.walkIn .undoing = some w → Did s (undoRead w r s)
  | stepEnd (w : Walk) : s.walkIn .stepDone = some w → Did s (stepBoundary s)
  | stepRestored (w : Walk) : s.walkIn .restoring = some w → Did s (stepRestored w s)
  | validated (a : List (Nat × Option (List Byte))) (b : List (ChanNo × Option (List Byte))) : Did s (judgeConfigure a b s)
  | mapChange (c : Cfg) : s.cmd.phase = .mapChange c → Did s (changeMap c s)
  | pass (r : Ret) : Did s (passWord r s)
  | unconfigured : s.draining = true → Did s (takeUnconfig s)
  | configure : taken codeConfigure s.lane.lane = true → Did s (actConfigure s)
  | unconfigure : taken codeUnconfigure s.lane.lane = true → Did s (actUnconfigure s)
  | run (d : List Byte) : taken codeRun s.lane.lane = true → Did s (actRun d s)
  | step (d : List Byte) : taken codeStep s.lane.lane = true → Did s (actStep d s)
  | stop : taken codeStop s.lane.lane = true → Did s (actStop s)
  | setPace (d : List Byte) : taken codeSetPace s.lane.lane = true → Did s (actSetPace d s)
  | setStopTime (d : List Byte) : taken codeSetStopTime s.lane.lane = true → Did s (actSetStopTime d s)
  | setStopCount (d : List Byte) : taken codeSetStopCount s.lane.lane = true → Did s (actSetStopCount d s)
  | setSkew (d : List Byte) : taken codeSetSkew s.lane.lane = true → Did s (actSetSkew d s)
  | setChannel (d : List Byte) : taken codeSetChannel s.lane.lane = true → Did s (actSetChannel d s)
  | mark : taken codeMark s.lane.lane = true → Did s (actMark s)
  | dropMark : taken codeDropMark s.lane.lane = true → Did s (actDropMark s)
  | rewind (d : List Byte) : taken codeRewind s.lane.lane = true → Did s (actRewind d s)
  | stepBack (d : List Byte) : taken codeStepBack s.lane.lane = true → Did s (actStepBack d s)
  | watchSet (d : List Byte) : taken codeWatchSet s.lane.lane = true → Did s (actWatchSet d s)
  | watchClear (d : List Byte) : taken codeWatchClear s.lane.lane = true → Did s (actWatchClear d s)
  | setPresentation (d : List Byte) : taken codeSetPresentation s.lane.lane = true → Did s (actSetPresentation d s)
  | setDwell (d : List Byte) : taken codeSetDwell s.lane.lane = true → Did s (actSetDwell d s)
  | setOverridePolicy (d : List Byte) : taken codeSetOverridePolicy s.lane.lane = true → Did s (actSetOverridePolicy d s)
  | releaseOverride (d : List Byte) : taken codeReleaseOverride s.lane.lane = true → Did s (actReleaseOverride d s)
  | queryPoint (d : List Byte) : taken codeQueryPoint s.lane.lane = true → Did s (actQueryPoint d s)
  | answer (res : Nat) (data : List Byte) : Did s (complete res data s)
  | capture (g : Regions) (first count : Nat) : Did s (finishCapture g first count s)
  | waitEnd (w : WaitCmd) : s.cmd.phase = .waiting w → s.waitOver w = true → Did s (endWait w s)

/-- What `exec` can answer: the state as it was, RESET, or one operation and the end of its event. -/
def Outcomes (s t : State) : Prop :=
  t = s ∨ t = resetAll true s ∨ t = { s with resetAsserted := false } ∨ ∃ u, Did s u ∧ t = closeEvent u

theorem Outcomes.stay (s : State) : Outcomes s s := .inl rfl

theorem Outcomes.did {s u : State} (h : Did s u) : Outcomes s (closeEvent u) := .inr (.inr (.inr ⟨u, h, rfl⟩))

theorem outcomes_event {c : Bool} {f : State → State} {s t : State} (h : c = true → Did s (f s))
    (e : event c f s = .next t) : Outcomes s t := by
  unfold event at e
  split at e
  · rename_i k; cases e; exact .did (h k)
  · cases e; exact .stay s

theorem outcomes_takeRow {i : Instr} {c : Bool} {f : State → State} {s t : State}
    (h : i.wf = true → s.canTake = true → Did s (f s)) (e : takeRow i c f s = .next t) : Outcomes s t := by
  unfold takeRow at e
  split at e
  · cases e
  · rename_i w
    split at e
    · rename_i k; cases e
      simp only [Bool.and_eq_true] at k
      exact .did (h (by simpa using w) k.1)
    · cases e; exact .stay s

theorem outcomes_judgeRow {c : State → Fwd → Bool} {s t : State} (e : judgeRow c s = .next t) : Outcomes s t := by
  unfold judgeRow at e
  split at e
  · cases e; exact .stay s
  · rename_i f rest hf
    split at e
    · split at e
      · rename_i k
        split at e
        · cases e; exact .did (.judgedOk f rest hf k)
        · cases e; exact .stay s
      · cases e; exact .did (.judgedBad f rest hf)
    · cases e; exact .stay s

theorem outcomes_command {code : Nat} {act : List Byte → State → State} {s t : State}
    (h : ∀ d, taken code s.lane.lane = true → Did s (act d s)) (e : runCommand code act s = .next t) : Outcomes s t := by
  unfold runCommand at e
  split at e
  · cases e; exact .stay s
  · split at e
    · rename_i k; cases e; exact .did (h _ k)
    · cases e; exact .did (.answer ..)

/-- Every next state of `exec` is one of its outcomes. -/
theorem exec_outcomes {i : Instr} {s t : State} (e : exec i s = .next t) : Outcomes s t := by
  cases i with
  | resetLine => cases e; exact .inr (.inl rfl)
  | resetRelease => cases e; exact .inr (.inr (.inl rfl))
  | pointRead r =>
    simp only [exec, execPointRead] at e
    exact outcomes_takeRow (fun _ k => .windowRead r _ k) e
  | aliasRead r =>
    simp only [exec, execAliasRead] at e
    exact outcomes_takeRow (fun _ k => .windowRead _ _ k) e
  | windowWrite r =>
    simp only [exec, execWindowWrite] at e
    refine outcomes_takeRow (fun w k => .windowWrite r k ?_) e
    simp only [Instr.wf, Bool.and_eq_true] at w; exact w.1
  | aliasWrite r =>
    simp only [exec, execAliasWrite] at e
    exact outcomes_takeRow (fun _ k => .refused r k) e
  | partOwnedWrite r =>
    simp only [exec, execPartOwnedWrite] at e
    exact outcomes_takeRow (fun _ k => .refused r k) e
  | passRequest r =>
    simp only [exec, execPassRequest] at e
    exact outcomes_takeRow (fun _ k => .forward r k) e
  | ringSlotWrite =>
    simp only [exec, execRingSlotWrite] at e
    exact outcomes_judgeRow e
  | fillCountWrite =>
    simp only [exec, execFillCountWrite] at e
    exact outcomes_judgeRow e
  | closedFlagWrite =>
    simp only [exec, execClosedFlagWrite] at e
    exact outcomes_judgeRow e
  | consumedCountWrite =>
    simp only [exec, execConsumedCountWrite] at e
    exact outcomes_judgeRow e
  | ownerWordWrite =>
    simp only [exec, execOwnerWordWrite] at e
    exact outcomes_judgeRow e
  | memorySideTake tag =>
    simp only [exec, execMemorySideTake] at e
    repeat' split at e
    · cases e; exact .stay s
    · cases e; exact .did (.issueOwn tag)
    · cases e; exact .stay s
    · cases e; exact .stay s
    · cases e; exact .did .issueFwd
    · cases e; exact .stay s
  | ownQueueEnqueue => cases e; exact .did .enqueue
  | memoryResponse tag st d =>
    simp only [exec, execMemoryResponse] at e
    repeat' split at e
    · cases e
    · cases e; exact .stay s
    · cases e; exact .stay s
    · cases e
    · cases e; exact .did (.answered tag _ _)
    · cases e; exact .did (.ownAnswered tag _ st d)
  | processorResponse tag =>
    simp only [exec, execProcessorResponse] at e
    repeat' split at e
    · cases e; exact .stay s
    · cases e; exact .stay s
    · cases e; exact .stay s
    · cases e; exact .did (.sent tag _)
  | fetchIssue p =>
    simp only [exec, execFetchIssue] at e
    repeat' split at e
    · cases e; exact .stay s
    · cases e; exact .stay s
    · rename_i i _ _ c hc; exact outcomes_event (fun k => .fetch i c hc k) e
  | recordLoad p =>
    simp only [exec, execRecordLoad] at e
    repeat' split at e
    · cases e; exact .stay s
    · cases e; exact .stay s
    · cases e; exact .stay s
    · cases e; exact .stay s
    · rename_i i _ _ c hc _ n pos hn _ r hr; exact outcomes_event (fun _ => .load i c n pos r hc hn) e
  | fetchDiscardedReturn =>
    simp only [exec, execFetchDiscardedReturn] at e
    split at e
    · cases e; exact .stay s
    · exact outcomes_event (fun _ => .dropped _) e
  | journalEntryWritten =>
    simp only [exec, execJournalEntryWritten] at e
    repeat' split at e
    · cases e; exact .stay s
    · exact outcomes_event (fun _ => .written ..) e
    · cases e; exact .stay s
  | journalWrap =>
    simp only [exec, execJournalWrap] at e
    repeat' split at e
    · cases e; exact .stay s
    · rename_i g _ hg _ r _; exact outcomes_event (fun _ => .wrap g r hg) e
    · cases e; exact .stay s
  | starvationExpiry =>
    simp only [exec, execStarvationExpiry] at e
    exact outcomes_event (fun k => .expire k) e
  | paceAdvance =>
    simp only [exec, execPaceAdvance] at e
    exact outcomes_event (fun _ => .pace) e
  | groupAdmit =>
    simp only [exec, execGroupAdmit] at e
    split at e
    · cases e; exact .stay s
    · rename_i h; exact outcomes_event (fun k => .late h k) e
    · rename_i tg h
      refine outcomes_event (fun k => ?_) e
      simp only [Bool.and_eq_true] at k
      exact .timed tg h k.1 k.2
  | formationPull =>
    simp only [exec, execFormationPull] at e
    split at e
    · cases e; exact .stay s
    · rename_i f h; exact outcomes_event (f := fun u => settle (pull (s.candidate f) u)) (fun _ => .pull f h) e
  | filterWordRead =>
    simp only [exec, execFilterWordRead] at e
    repeat' split at e
    · cases e; exact .stay s
    · cases e; exact .stay s
    · rename_i op h _ r _; exact outcomes_event (f := fun u => settle (filterRead op r u)) (fun _ => .filter op r h) e
  | commitBegin =>
    simp only [exec, execCommitBegin] at e
    refine outcomes_event (fun k => ?_) e
    cases h : s.announced with
    | none => simp [h] at k
    | some f => exact .begin f h
  | commitItem =>
    simp only [exec, execCommitItem] at e
    repeat' split at e
    · cases e; exact .stay s
    · cases e; exact .stay s
    · rename_i f h _ it old _; exact outcomes_event (fun _ => .item f it old h) e
  | commitBoundary =>
    simp only [exec, execCommitBoundary] at e
    split at e
    · cases e; exact .stay s
    · rename_i f h; exact outcomes_event (fun _ => .boundary f h) e
  | ownAccessError =>
    simp only [exec, execOwnAccessError] at e
    repeat' split at e
    · cases e; exact .stay s
    · cases e; exact .stay s
    · exact outcomes_event (fun _ => .error ..) e
  | commitRestored =>
    simp only [exec, execCommitRestored] at e
    exact outcomes_event (fun _ => .restored) e
  | undoStepBegin =>
    simp only [exec, execUndoStepBegin] at e
    refine outcomes_event (fun k => ?_) e
    cases h : s.walkIn .announced with
    | none => simp [h] at k
    | some w => exact .stepBegin w h
  | undoEntry =>
    simp only [exec, execUndoEntry] at e
    repeat' split at e
    · cases e; exact .stay s
    · cases e; exact .stay s
    · cases e; exact .stay s
    · rename_i w h _ _ _ _ r _; exact outcomes_event (fun _ => .undo w r h) e
  | undoStepBoundary =>
    simp only [exec, execUndoStepBoundary] at e
    refine outcomes_event (fun k => ?_) e
    cases h : s.walkIn .stepDone with
    | none => simp [h] at k
    | some w => exact .stepEnd w h
  | undoStepRestored =>
    simp only [exec, execUndoStepRestored] at e
    split at e
    · cases e; exact .stay s
    · rename_i w h; exact outcomes_event (fun _ => .stepRestored w h) e
  | configure =>
    simp only [exec, execConfigure] at e
    exact outcomes_command (fun d k => .configure k) e
  | configureValidation =>
    simp only [exec, execConfigureValidation] at e
    split at e
    · exact outcomes_event (fun _ => .validated ..) e
    · cases e; exact .stay s
  | regionMapChange =>
    simp only [exec, execRegionMapChange] at e
    split at e
    · rename_i c h; exact outcomes_event (fun _ => .mapChange c h) e
    · cases e; exact .stay s
  | imagePassWord =>
    simp only [exec, execImagePassWord] at e
    split at e
    · cases e; exact .stay s
    · exact outcomes_event (fun _ => .pass _) e
  | unconfigure =>
    simp only [exec, execUnconfigure] at e
    exact outcomes_command (fun d k => .unconfigure k) e
  | unconfigureEffect =>
    simp only [exec, execUnconfigureEffect] at e
    refine outcomes_event (fun k => .unconfigured ?_) e
    simp only [Bool.and_eq_true] at k; exact k.1.2
  | run =>
    simp only [exec, execRun] at e
    exact outcomes_command (fun d k => .run d k) e
  | step =>
    simp only [exec, execStep] at e
    exact outcomes_command (fun d k => .step d k) e
  | stop =>
    simp only [exec, execStop] at e
    exact outcomes_command (fun d k => .stop k) e
  | setPace =>
    simp only [exec, execSetPace] at e
    exact outcomes_command (fun d k => .setPace d k) e
  | setStopTime =>
    simp only [exec, execSetStopTime] at e
    exact outcomes_command (fun d k => .setStopTime d k) e
  | setStopCount =>
    simp only [exec, execSetStopCount] at e
    exact outcomes_command (fun d k => .setStopCount d k) e
  | setSkew =>
    simp only [exec, execSetSkew] at e
    exact outcomes_command (fun d k => .setSkew d k) e
  | setChannel =>
    simp only [exec, execSetChannel] at e
    exact outcomes_command (fun d k => .setChannel d k) e
  | mark =>
    simp only [exec, execMark] at e
    exact outcomes_command (fun d k => .mark k) e
  | dropMark =>
    simp only [exec, execDropMark] at e
    exact outcomes_command (fun d k => .dropMark k) e
  | rewind =>
    simp only [exec, execRewind] at e
    exact outcomes_command (fun d k => .rewind d k) e
  | stepBack =>
    simp only [exec, execStepBack] at e
    exact outcomes_command (fun d k => .stepBack d k) e
  | rewindStart =>
    simp only [exec, execRewindStart] at e
    split at e
    · rename_i w h; exact outcomes_event (fun _ => .start w h) e
    · cases e; exact .stay s
  | watchSet =>
    simp only [exec, execWatchSet] at e
    exact outcomes_command (fun d k => .watchSet d k) e
  | watchClear =>
    simp only [exec, execWatchClear] at e
    exact outcomes_command (fun d k => .watchClear d k) e
  | setPresentation =>
    simp only [exec, execSetPresentation] at e
    exact outcomes_command (fun d k => .setPresentation d k) e
  | holdCapture =>
    simp only [exec, execHoldCapture] at e
    split at e
    · exact outcomes_event (fun _ => .capture ..) e
    · cases e; exact .stay s
  | setDwell =>
    simp only [exec, execSetDwell] at e
    exact outcomes_command (fun d k => .setDwell d k) e
  | setOverridePolicy =>
    simp only [exec, execSetOverridePolicy] at e
    exact outcomes_command (fun d k => .setOverridePolicy d k) e
  | releaseOverride =>
    simp only [exec, execReleaseOverride] at e
    exact outcomes_command (fun d k => .releaseOverride d k) e
  | queryPoint =>
    simp only [exec, execQueryPoint] at e
    exact outcomes_command (fun d k => .queryPoint d k) e
  | commandWaitEnd =>
    simp only [exec, execCommandWaitEnd] at e
    split at e
    · rename_i w h
      exact outcomes_event (fun k => .waitEnd w h (by simp only [Bool.and_eq_true] at k; exact k.2)) e
    · cases e; exact .stay s
  | descriptorRejected =>
    simp only [exec, execDescriptorRejected] at e
    repeat' split at e
    · cases e; exact .stay s
    · exact outcomes_event (fun _ => .answer ..) e
    · cases e; exact .stay s

/-- What holds after a µs of wall time, after RESET and its release, after every operation with the end of its event, and of the state
itself, holds after every step. -/
theorem step_invariant {P : State → Prop} (queue : ∀ s q, P s → P (s.setPending q)) (wall : ∀ s, P s → P (tick s))
    (reset : ∀ s, P s → P (resetAll true s)) (release : ∀ s, P s → P { s with resetAsserted := false })
    (did : ∀ s u, P s → Did s u → P (closeEvent u)) {s t : State} (h : P s) (e : step s = .next t) : P t := by
  unfold step at e
  split at e
  · cases e; exact wall s h
  · rename_i c rest _
    rcases exec_outcomes e with k | k | k | ⟨u, k, l⟩
    · rw [k]; exact queue s rest h
    · rw [k]; exact reset _ (queue s rest h)
    · rw [k]; exact release _ (queue s rest h)
    · rw [l]; exact did _ u (queue s rest h) k

end Sys2Proof.Machine
end

