-- ==== Sys2Proof/Laws/Clock.lean ====
section
/-! SUPPORT. What each shared operation does to the replay clock: it leaves R and does not let C fall, so that `State.clockOk` (R90, R101)
goes from a state to the next; and what the end of a walk makes of C (R139). -/

namespace Sys2Proof.Machine

/-! ## R stays and C does not fall -/

/-- R stays and C does not fall (R101). -/
def Timeline.Rises (a b : Timeline) : Prop := b.r = a.r ∧ a.c.toNat ≤ b.c.toNat

namespace Timeline

theorem Rises.refl (a : Timeline) : Rises a a := ⟨rfl, Nat.le_refl _⟩

theorem Rises.trans {a b c : Timeline} (h : Rises a b) (k : Rises b c) : Rises a c := ⟨k.1.trans h.1, Nat.le_trans h.2 k.2⟩

theorem Rises.of {a b : Timeline} (h : b.r = a.r) (k : b.c = a.c) : Rises a b := ⟨h, Nat.le_of_eq (congrArg BitVec.toNat k.symm)⟩

theorem rises_addHold (w : HoldReason) (t : Timeline) : Rises t (t.addHold w) := by
  unfold Timeline.addHold; split <;> exact .of rfl rfl

theorem rises_dropHold (w : HoldReason) (t : Timeline) : Rises t (t.dropHold w) := by
  simp only [Timeline.dropHold]; split <;> exact .of rfl rfl

end Timeline

theorem rises_holdOn (w : HoldReason) (s : State) : Timeline.Rises s.lane (holdOn w s).lane := by
  simp only [holdOn]
  split
  · split <;> simpa using Timeline.rises_addHold w s.lane
  · exact .refl _

theorem rises_holdOff (w : HoldReason) (s : State) : Timeline.Rises s.lane (holdOff w s).lane := by
  unfold holdOff
  split
  · simpa using Timeline.rises_dropHold w s.lane
  · exact .refl _

theorem rises_endHistory (s : State) : Timeline.Rises s.lane (endHistory s).lane := by
  have e : (endHistory s).lane = s.lane.stopNow := by simp [endHistory, stopLane_lane]
  rw [e]; exact .of rfl rfl

theorem rises_endTest (s : State) : Timeline.Rises s.lane (endTest s).lane := by
  simp only [endTest]; split
  · exact rises_endHistory _
  · exact .refl _

theorem rises_stopTimeTest (s : State) : Timeline.Rises s.lane (stopTimeTest s).lane := by
  unfold stopTimeTest; split
  · exact .refl _
  · refine .trans ?_ (rises_holdOn ..)
    simp only [postLane_frame, State.updLane_lane]
    refine ⟨rfl, ?_⟩
    show _ ≤ BitVec.toNat (if _ then _ else _)
    split <;> omega

theorem rises_laneTests (s : State) : Timeline.Rises s.lane (laneTests s).lane := (rises_endTest s).trans (rises_stopTimeTest _)

theorem rises_anchorClear (s : State) : Timeline.Rises s.lane (anchorClear s).lane := by
  unfold anchorClear; split
  · exact .refl _
  · exact rises_holdOff ..

theorem rises_anchorResume (s : State) : Timeline.Rises s.lane (anchorResume s).lane := by
  simp only [anchorResume]; split
  · exact rises_anchorClear s
  · exact (rises_anchorClear s).trans (rises_laneTests _)

theorem rises_paceHold (s : State) : Timeline.Rises s.lane (paceHold s).lane := by
  unfold paceHold
  split
  · simp only [State.updLane_lane, Timeline.heldAt]
    split <;> exact .of rfl rfl
  · exact .refl _

theorem rises_settle (s : State) : Timeline.Rises s.lane (settle s).lane := by
  have k := ((rises_anchorClear (recomputeLive s)).trans (rises_laneTests _)).trans (rises_paceHold _)
  simpa [settle] using k

theorem rises_settleKeep (s : State) : Timeline.Rises s.lane (settleKeep s).lane := by
  have k := (rises_laneTests (recomputeLive s)).trans (rises_paceHold _)
  simpa [settleKeep] using k

/-! ## The law goes along -/

/-- R stays, C does not fall, and what may still become R (the time of a group in flight, the clock a failed step takes back) is not new. -/
structure ClockUp (s t : State) : Prop where
  lane : Timeline.Rises s.lane t.lane
  fly : ∀ f, t.commit.fly = some f → ∃ g, s.commit.fly = some g ∧ f.tg = g.tg
  walk : ∀ w, t.jrn.walk = some w → w.phase.stepRuns = true →
    ∃ v, s.jrn.walk = some v ∧ v.phase.stepRuns = true ∧ w.snap = v.snap

theorem ClockUp.ok {s t : State} (h : ClockUp s t) (k : s.clockOk) : t.clockOk := by
  obtain ⟨⟨hr, hc⟩, hf, hw⟩ := h
  obtain ⟨k1, k2, k3⟩ := k
  refine ⟨by rw [hr]; omega, fun f e => ?_, fun w e p => ?_⟩
  · obtain ⟨g, e', q⟩ := hf f e
    have := k2 g e'; rw [q]; omega
  · obtain ⟨v, e', p', q⟩ := hw w e p
    rw [q]; exact k3 v e' p'

theorem ClockUp.of {s t : State} (a : Timeline.Rises s.lane t.lane) (b : t.commit.fly = s.commit.fly) (c : t.jrn.walk = s.jrn.walk) :
    ClockUp s t :=
  ⟨a, fun f e => ⟨f, by rw [← b]; exact e, rfl⟩, fun w e p => ⟨w, by rw [← c]; exact e, p, rfl⟩⟩

theorem ClockUp.refl (s : State) : ClockUp s s := .of (.refl _) rfl rfl

theorem ClockUp.trans {s t u : State} (h : ClockUp s t) (k : ClockUp t u) : ClockUp s u := by
  refine ⟨h.lane.trans k.lane, fun f e => ?_, fun w e p => ?_⟩
  · obtain ⟨g, e1, q1⟩ := k.fly f e
    obtain ⟨g', e2, q2⟩ := h.fly g e1
    exact ⟨g', e2, q1.trans q2⟩
  · obtain ⟨v, e1, p1, q1⟩ := k.walk w e p
    obtain ⟨v', e2, p2, q2⟩ := h.walk v e1 p1
    exact ⟨v', e2, p2, q1.trans q2⟩

/-- The law holds where R, C, the group in flight and the walk stand as they stood. -/
theorem clockOk_congr {s t : State} (a : t.lane.r = s.lane.r) (b : t.lane.c = s.lane.c) (c : t.commit.fly = s.commit.fly)
    (d : t.jrn.walk = s.jrn.walk) (k : s.clockOk) : t.clockOk :=
  (ClockUp.of (.of a b) c d).ok k

theorem clockUp_settle (s : State) : ClockUp s (settle s) := .of (rises_settle s) (by simp) (by simp)

theorem clockUp_settleKeep (s : State) : ClockUp s (settleKeep s) := .of (rises_settleKeep s) (by simp) (by simp)

theorem clockUp_holdOn (w : HoldReason) (s : State) : ClockUp s (holdOn w s) := .of (rises_holdOn w s) (by simp) (by simp)

theorem clockUp_holdOff (w : HoldReason) (s : State) : ClockUp s (holdOff w s) := .of (rises_holdOff w s) (by simp) (by simp)

theorem clockUp_stopLane (s : State) : ClockUp s (stopLane s) := .of (.of rfl rfl) (by simp) (by simp)

theorem clockUp_endHistory (s : State) : ClockUp s (endHistory s) := .of (rises_endHistory s) (by simp) (by simp)

theorem clockUp_transferSettings (s : State) : ClockUp s (transferSettings s) := .of (.of rfl rfl) rfl rfl

/-- A hold reason that may join (R108 step 6). -/
theorem clockUp_holdIf (b : Bool) (w : HoldReason) (s : State) : ClockUp s (if b then holdOn w s else s) := by
  cases b
  · exact .refl s
  · exact clockUp_holdOn w s

theorem clockUp_decideBoundary (count spent watch full : Bool) (s : State) : ClockUp s (decideBoundary count spent watch full s) := by
  simp only [decideBoundary]
  split
  · exact clockUp_stopLane s
  split
  · have e : (stepDone s).lane = s.lane.stopNow := by simp [stepDone, stopLane_lane]
    exact .of (by rw [e]; exact .of rfl rfl) (by simp) (by simp)
  split
  · exact clockUp_endHistory s
  · exact ((clockUp_holdIf count .stopCount s).trans (clockUp_holdIf watch .watch _)).trans (clockUp_holdIf full .noticeFull _)

theorem clockUp_handleBoundary (w : Bool) (s : State) : ClockUp s (handleBoundary w s) := by
  simp only [handleBoundary]
  exact .trans (.of (.of (by simp) (by simp)) (by simp) (by simp)) (clockUp_decideBoundary ..)

/-! ## The end of a walk (R139) -/

/-- C at the end of a walk is not below R. -/
theorem Timeline.takeTarget_le (w : Walk) (o : RewindOutcome) (t : Timeline) (h : t.r.toNat ≤ t.c.toNat) :
    (t.takeTarget w o).r.toNat ≤ (t.takeTarget w o).c.toNat := by
  unfold Timeline.takeTarget
  cases o
  · cases w.targetC with
    | none => exact Nat.le_refl _
    | some c => simp only [Option.elim]; split <;> omega
  · exact h
  · exact h

theorem clockOk_finishRewind {s : State} (k : s.lane.r.toNat ≤ s.lane.c.toNat) (n : s.commit.fly = none) (w : Walk) (o : RewindOutcome) :
    (finishRewind w o s).clockOk := by
  simp only [finishRewind]
  refine (clockUp_settle _).ok ⟨?_, fun f e => ?_, fun v e => ?_⟩
  · simpa [stopLane, Timeline.stopNow, Timeline.goTo] using Timeline.takeTarget_le w o s.lane k
  · simp [n] at e
  · simp at e

/-- The next step is announced, or the walk ends: with no group in flight the law needs R and C alone. -/
theorem clockOk_walkOn {s : State} (k : s.lane.r.toNat ≤ s.lane.c.toNat) (n : s.commit.fly = none) : (walkOn s).clockOk := by
  unfold walkOn
  split
  · rename_i h
    refine ⟨k, fun f e => ?_, fun w e => ?_⟩
    · rw [n] at e; cases e
    · rw [h] at e; cases e
  split
  · exact clockOk_finishRewind k n _ _
  split
  · exact clockOk_finishRewind k n _ _
  · refine ⟨k, fun f e => by simp [n] at e, fun w e p => ?_⟩
    simp only [State.updWalk, State.updJrn_jrn, Option.map_eq_some_iff] at e
    obtain ⟨v, -, e2⟩ := e
    rw [← e2] at p; cases p

end Sys2Proof.Machine
end

