-- ==== Sys2Proof/Laws/Flights.lean ====
section
/-! SUPPORT. How the end of an event moves the lane while a group, a walk or a pass is in flight: what `State.flightsOk` rests on. -/

namespace Sys2Proof.Machine

/-- The lane state stays, or a lane that runs, steps or holds goes to another of these or stops; with a group in flight (`fly`) only a
HOLDING lane moves. -/
def Timeline.Moves (fly : Bool) (a b : Timeline) : Prop :=
  b.lane = a.lane ∨ ((a.lane = .running ∨ a.lane = .stepping ∨ a.lane = .holding) ∧
    (b.lane = .running ∨ b.lane = .stepping ∨ b.lane = .holding ∨ b.lane = .stopped) ∧ (a.lane = .holding ∨ fly = false))

theorem Timeline.Moves.trans {f : Bool} {a b c : Timeline} (h : Timeline.Moves f a b) (k : Timeline.Moves f b c) :
    Timeline.Moves f a c := by
  unfold Timeline.Moves at *
  rcases h with h | ⟨h1, h2, h3⟩ <;> rcases k with k | ⟨k1, k2, k3⟩ <;> simp_all

theorem Timeline.Moves.refl (f : Bool) (a : Timeline) : Timeline.Moves f a a := .inl rfl

/-- What is in flight stays; the command in hand stays, or is no STOP that waits and no rewind that is to start; the lane moves as the end
of an event may move it. -/
structure SameFlights (s t : State) : Prop where
  walk : t.jrn.walk.isSome = s.jrn.walk.isSome
  fly : t.commit.fly.isSome = s.commit.fly.isSome
  img : t.img.isSome = true → s.img.isSome = true
  phase : t.cmd.phase = s.cmd.phase ∨ (t.cmd.phase ≠ .waiting .stop ∧ ∀ w, t.cmd.phase ≠ .starting w)
  lane : Timeline.Moves s.commit.fly.isSome s.lane t.lane

theorem SameFlights.refl (s : State) : SameFlights s s := ⟨rfl, rfl, id, .inl rfl, .inl rfl⟩
theorem SameFlights.trans {s t u : State} (h : SameFlights s t) (k : SameFlights t u) : SameFlights s u where
  walk := k.walk.trans h.walk
  fly := k.fly.trans h.fly
  img := h.img ∘ k.img
  phase := by
    rcases k.phase with d | d
    · rw [d]; exact h.phase
    · exact .inr d
  lane := h.lane.trans (h.fly ▸ k.lane)

/-- `State.flightsOk` holds where what is in flight stays. -/
theorem SameFlights.ok {s t : State} (h : SameFlights s t) (k : s.flightsOk) : t.flightsOk := by
  obtain ⟨a, b, c, d, e⟩ := h
  obtain ⟨k1, k2, k3, k4, k5⟩ := k
  have a' : t.jrn.walk ≠ none → s.jrn.walk ≠ none := by
    cases h : t.jrn.walk <;> cases g : s.jrn.walk <;> simp_all
  have b' : t.commit.fly ≠ none → s.commit.fly ≠ none := by
    cases h : t.commit.fly <;> cases g : s.commit.fly <;> simp_all
  have b'' : s.commit.fly = none → t.commit.fly = none := by
    cases h : t.commit.fly <;> cases g : s.commit.fly <;> simp_all
  have c' : t.img ≠ none → s.img ≠ none := by
    cases h : t.img <;> cases g : s.img <;> simp_all
  have nf : s.commit.fly ≠ none → s.commit.fly.isSome = true := by cases h : s.commit.fly <;> simp
  refine ⟨fun x => ?_, fun x => ?_, fun x => ?_, fun x => ?_, fun w x => ?_⟩
  · obtain ⟨x1, x2⟩ := k1 (a' x)
    refine ⟨?_, b'' x2⟩
    rcases e with e | ⟨e1, e2, e3⟩
    · rw [e]; exact x1
    · rcases e1 with e1 | e1 | e1 <;> simp [e1] at x1
  · have x1 := k2 (b' x)
    have x2 := nf (b' x)
    rcases e with e | ⟨e1, e2, e3⟩
    · rw [e]; exact x1
    · rcases e3 with e3 | e3
      · simp [e3] at x1
      · rw [x2] at e3; cases e3
  · have x1 := k3 (c' x)
    rcases e with e | ⟨e1, e2, e3⟩
    · rw [e]; exact x1
    · rcases e1 with e1 | e1 | e1 <;> simp [e1] at x1
  · rcases d with d | d
    · have x1 := k4 (d ▸ x)
      rcases e with e | ⟨e1, e2, e3⟩
      · rw [e]; exact x1
      · rcases e2 with h | h | h | h <;> simp [h]
    · exact absurd x d.1
  · rcases d with d | d
    · have x1 := k5 w (d ▸ x)
      refine ⟨b'' x1.1, ?_⟩
      rcases e with e | ⟨e1, e2, e3⟩
      · rw [e]; exact x1.2
      · rcases e2 with h | h | h | h <;> simp [h]
    · exact absurd x (d.2 w)

/-- The same, from the frame of an operation. -/
theorem SameFlights.of {s t : State} (a : t.jrn.walk = s.jrn.walk) (b : t.commit.fly = s.commit.fly) (c : t.img = s.img) (d : t.cmd = s.cmd)
    (e : Timeline.Moves s.commit.fly.isSome s.lane t.lane) : SameFlights s t :=
  ⟨by rw [a], by rw [b], by rw [c]; exact id, .inl (by rw [d]), e⟩

theorem moves_endTest (s : State) : Timeline.Moves s.commit.fly.isSome s.lane (endTest s).lane := by
  by_cases g : (endTest s).lane.lane = s.lane.lane
  · exact .inl g
  refine .inr ?_
  unfold endTest at g ⊢
  simp only [] at g ⊢
  split at g
  · rename_i k
    rw [if_pos k]
    simp only [Bool.and_eq_true] at k
    have r := k.2
    have f : s.commit.fly.isSome = false := by
      have := k.1.1; simp [State.historyEnded] at this; simp [this]
    refine ⟨?_, ?_, .inr f⟩
    · simp [State.running] at r; rcases r with r | r <;> simp [r]
    · simp [endHistory, stopLane, Timeline.stopNow, Timeline.goTo]
  · exact absurd (by simp) g

theorem moves_addHold (w : HoldReason) (t : Timeline) (f : Bool) (h : t.lane = .holding ∨ f = false) :
    Timeline.Moves f t (t.addHold w) := by
  unfold Timeline.addHold
  split <;> simp_all [Timeline.Moves, Timeline.goTo]

theorem moves_dropHold (w : HoldReason) (t : Timeline) (f : Bool) : Timeline.Moves f t (t.dropHold w) := by
  unfold Timeline.dropHold
  simp only []
  split
  · rename_i k; cases r : t.resume <;> simp_all [Timeline.Moves, Timeline.goTo, Resume.lane]
  · exact .inl rfl

theorem moves_holdOn (w : HoldReason) (s : State) (f : Bool) (h : s.lane.lane = .holding ∨ f = false) :
    Timeline.Moves f s.lane (holdOn w s).lane := by
  unfold holdOn
  split
  · simp only []
    split
    · simpa using moves_addHold w s.lane f h
    · simpa using moves_addHold w s.lane f h
  · exact .refl _ _

theorem moves_holdOff (w : HoldReason) (s : State) (f : Bool) : Timeline.Moves f s.lane (holdOff w s).lane := by
  unfold holdOff
  split
  · simpa using moves_dropHold w s.lane f
  · exact .refl _ _

theorem moves_stopTimeTest (s : State) : Timeline.Moves s.commit.fly.isSome s.lane (stopTimeTest s).lane := by
  unfold stopTimeTest
  split
  · exact .refl _ _
  · rename_i st tg h
    have f : s.commit.fly.isSome = false := by
      unfold State.stopTimeReached at h
      split at h
      · split at h
        · rename_i k; simp only [Bool.and_eq_true] at k; simpa using k.1.1.1.2
        · cases h
      · cases h
    have k := fun u : State => moves_holdOn .stopTime (postLane (.stopTime u.lane.c st (BitVec.ofNat 48 tg)) u)
      s.commit.fly.isSome (.inr f)
    have k := k (s.updLane fun t => { t with c := if t.c.toNat < st.toNat then st else t.c, stopTime := none })
    simpa [Timeline.Moves] using k

theorem moves_anchorClear (s : State) (f : Bool) : Timeline.Moves f s.lane (anchorClear s).lane := by
  unfold anchorClear
  split
  · exact .refl _ _
  · exact moves_holdOff ..

theorem moves_laneTests (s : State) : Timeline.Moves s.commit.fly.isSome s.lane (laneTests s).lane := by
  unfold laneTests
  have a := moves_endTest s
  have b := moves_stopTimeTest (endTest s)
  have e : (endTest s).commit = s.commit := by simp
  rw [e] at b
  exact a.trans b

/-- The end of an event keeps what is in flight. -/
theorem sameFlights_settle (s : State) : SameFlights s (settle s) := by
  refine SameFlights.of (by simp) (by simp) (by simp) (by simp) ?_
  have a : (recomputeLive s).lane = s.lane := by simp
  have c1 : (anchorClear (recomputeLive s)).commit = s.commit := by simp
  have b := moves_anchorClear (recomputeLive s) s.commit.fly.isSome
  have c := moves_laneTests (anchorClear (recomputeLive s))
  rw [c1] at c; rw [a] at b
  refine (b.trans c).trans (.inl ?_)
  simp [settle]

theorem sameFlights_settleKeep (s : State) : SameFlights s (settleKeep s) := by
  refine SameFlights.of (by simp) (by simp) (by simp) (by simp) ?_
  have a : (recomputeLive s).lane = s.lane := by simp
  have c1 : ((recomputeLive s)).commit = s.commit := by simp
  have c := moves_laneTests ((recomputeLive s))
  rw [c1, a] at c
  refine c.trans (.inl ?_)
  simp [settleKeep]

theorem sameFlights_startPending (s : State) : SameFlights s (startPending s) := by
  unfold startPending beginSlot
  split
  · exact ⟨by simp, by simp, by simp, .inr (by simp), .inl (by simp)⟩
  · exact .refl s

theorem sameFlights_complete (r : Nat) (d : List Byte) (s : State) : SameFlights s (complete r d s) := by
  unfold complete
  refine SameFlights.trans ?_ (sameFlights_startPending _)
  exact ⟨by simp, by simp, by simp, .inr (by simp [CmdProc.advance]), .inl (by simp)⟩

theorem sameFlights_closeEvent (s : State) : SameFlights s (closeEvent s) := by
  refine SameFlights.of (by simp) (by simp) (by simp) (by simp) (.inl (by simp))

end Sys2Proof.Machine
end

