-- ==== Sys2Proof/Laws/Merge.lean ====
section
/-! SUPPORT. What the searches of the merge and of the ring guard find: the least of the timed items, and the channel whose ring holds an
address. -/

namespace Sys2Proof.Machine

theorem Key.lt_iff (a b : Key) : a.lt b = true ↔
    a.time < b.time ∨ (a.time = b.time ∧ (a.chan < b.chan ∨ (a.chan = b.chan ∧ a.dist < b.dist))) := by
  simp [Key.lt]

theorem leastItem_eq_none (l : List (Key × Source)) : leastItem l = none ↔ l = [] := by
  cases l with
  | nil => simp [leastItem]
  | cons x l =>
    simp only [leastItem]
    split
    · simp
    · split <;> simp

/-- The least item is one of the items, and none comes before it. -/
theorem leastItem_least : ∀ (l : List (Key × Source)) (x : Key × Source), leastItem l = some x →
    x ∈ l ∧ ∀ y ∈ l, y.1.lt x.1 = false := by
  intro l
  induction l with
  | nil => intro x h; simp [leastItem] at h
  | cons a l ih =>
    intro x h
    simp only [leastItem] at h
    split at h
    · rename_i e
      rw [leastItem_eq_none] at e
      subst e
      simp only [Option.some.injEq] at h
      subst h
      simp [Key.lt]
    · rename_i b e
      obtain ⟨hb, hl⟩ := ih b e
      split at h
      · rename_i hlt
        simp only [Option.some.injEq] at h
        subst h
        refine ⟨List.mem_cons_of_mem _ hb, fun y hy => ?_⟩
        rcases List.mem_cons.1 hy with rfl | hy
        · refine Bool.eq_false_iff.2 fun hc => ?_
          rw [Key.lt_iff] at hc hlt
          omega
        · exact hl y hy
      · rename_i hlt
        simp only [Option.some.injEq] at h
        subst h
        refine ⟨by simp, fun y hy => ?_⟩
        rcases List.mem_cons.1 hy with rfl | hy
        · simp [Key.lt]
        · refine Bool.eq_false_iff.2 fun hc => ?_
          have h2 := Bool.eq_false_iff.1 (hl y hy)
          rw [ne_eq, Key.lt_iff] at h2
          rw [Key.lt_iff] at hc hlt
          omega

/-- The channel found for an address is the first whose ring holds it. -/
theorem ringAt_eq_some (a : Nat) : ∀ (l : List Chan) (k i : Nat) (c : Chan), ringAt a k l = some (i, c) ↔
    k ≤ i ∧ l[i - k]? = some c ∧ (c.base ≤ a ∧ a < c.base + 32 * 2 ^ c.k) ∧
      ∀ j d, k ≤ j → j < i → l[j - k]? = some d → ¬(d.base ≤ a ∧ a < d.base + 32 * 2 ^ d.k) := by
  intro l
  induction l with
  | nil => intro k i c; simp [ringAt]
  | cons x l ih =>
    intro k i c
    unfold ringAt
    by_cases h : within a x.base (32 * 2 ^ x.k) = true
    · have h' : x.base ≤ a ∧ a < x.base + 32 * 2 ^ x.k := by simpa [within] using h
      rw [if_pos h]
      constructor
      · intro e
        simp only [Option.some.injEq, Prod.mk.injEq] at e
        obtain ⟨rfl, rfl⟩ := e
        exact ⟨Nat.le_refl _, by simp, h', fun j d h1 h2 => by omega⟩
      · rintro ⟨h1, h2, h3, h4⟩
        by_cases e : k = i
        · subst e
          simp only [Nat.sub_self, List.getElem?_cons_zero, Option.some.injEq] at h2
          rw [h2]
        · exact absurd h' (h4 k x (Nat.le_refl _) (by omega) (by simp))
    · have h' : ¬(x.base ≤ a ∧ a < x.base + 32 * 2 ^ x.k) := by simpa [within] using h
      rw [if_neg h, ih]
      constructor
      · rintro ⟨h1, h2, h3, h4⟩
        refine ⟨by omega, ?_, h3, fun j d hj1 hj2 hj3 => ?_⟩
        · rw [show i - k = (i - (k + 1)) + 1 by omega]
          simpa using h2
        · by_cases e : j = k
          · subst e
            simp only [Nat.sub_self, List.getElem?_cons_zero, Option.some.injEq] at hj3
            subst hj3
            exact h'
          · refine h4 j d (by omega) hj2 ?_
            rw [show j - k = (j - (k + 1)) + 1 by omega] at hj3
            simpa using hj3
      · rintro ⟨h1, h2, h3, h4⟩
        have hk : k ≠ i := by
          rintro rfl
          simp only [Nat.sub_self, List.getElem?_cons_zero, Option.some.injEq] at h2
          subst h2
          exact h' h3
        refine ⟨by omega, ?_, h3, fun j d hj1 hj2 hj3 => ?_⟩
        · rw [show i - k = (i - (k + 1)) + 1 by omega] at h2
          simpa using h2
        · refine h4 j d (by omega) hj2 ?_
          rw [show j - k = (j - (k + 1)) + 1 by omega]
          simpa using hj3

end Sys2Proof.Machine
end

