-- ==== Sys2Proof/Laws/Posts.lean ====
section
/-! SUPPORT. Notices within an event: what waits in the overflow buffer goes on waiting, and so a notice that one operation of an event
posts is posted in the event. -/

namespace Sys2Proof.Machine

/-- What waits in the overflow buffer of `s` waits in that of `t`, ahead of what has joined. -/
def Waits (s t : State) : Prop := s.ntc.overflow <+: t.ntc.overflow

theorem Waits.refl (s : State) : Waits s s := List.prefix_refl _

theorem Waits.trans {s t u : State} (h : Waits s t) (k : Waits t u) : Waits s u := List.IsPrefix.trans h k

theorem Waits.congr {s t u : State} (h : Waits s t) (k : u.ntc.overflow = t.ntc.overflow) : Waits s u := by unfold Waits at *; rw [k]; exact h

theorem foldl_waits {α : Type} (f : State → α → State) (h : ∀ u x, Waits u (f u x)) (l : List α) (s : State) :
    Waits s (l.foldl f s) := by
  induction l generalizing s with
  | nil => exact Waits.refl s
  | cons x xs ih => exact (h s x).trans (ih _)

theorem waits_post (n : Notice) (s : State) : Waits s (post n s) := by
  unfold post
  repeat' split
  all_goals first
    | exact Waits.refl s
    | exact (Waits.refl s).congr (by simp)
    | exact List.prefix_append _ _

theorem waits_postLane (b : NBody) (s : State) : Waits s (postLane b s) := waits_post ..

theorem waits_holdOn (w : HoldReason) (s : State) : Waits s (holdOn w s) := by
  simp only [holdOn]
  repeat' split
  · exact Waits.trans ((Waits.refl s).congr (by rfl)) (waits_postLane ..)
  · exact (Waits.refl s).congr (by rfl)
  · exact Waits.refl s

theorem waits_endHistory (s : State) : Waits s (endHistory s) := Waits.trans ((Waits.refl s).congr (by rfl)) (waits_postLane ..)

theorem waits_endTest (s : State) : Waits s (endTest s) := by
  simp only [endTest]
  split
  · exact Waits.trans ((Waits.refl s).congr (by rfl)) (waits_endHistory ..)
  · exact (Waits.refl s).congr (by rfl)

theorem waits_stopTimeTest (s : State) : Waits s (stopTimeTest s) := by
  unfold stopTimeTest
  split
  · exact Waits.refl s
  · refine Waits.trans ?_ (waits_holdOn _ _)
    refine Waits.trans ?_ (waits_postLane _ _)
    exact (Waits.refl s).congr (by rfl)

theorem waits_laneTests (s : State) : Waits s (laneTests s) := (waits_endTest ..).trans (waits_stopTimeTest ..)

theorem waits_postDrained (i : Nat) (c : Chan) (s : State) : Waits s (postDrained i c s) := by
  unfold postDrained
  split
  · exact waits_post ..
  · exact (waits_post ..).congr (by rfl)

theorem waits_recomputeChan (s : State) (i : Nat) : Waits s (recomputeChan s i) := by
  simp only [recomputeChan]
  repeat' split
  · exact Waits.refl s
  · exact Waits.refl s
  · exact Waits.trans ((Waits.refl s).congr (by rfl)) (waits_postDrained ..)
  · exact (Waits.refl s).congr (by rfl)

theorem waits_recomputeAll (s : State) : Waits s (recomputeAll s) := foldl_waits _ (fun u i => waits_recomputeChan u i) _ _

theorem waits_handLoose (i : Nat) (pos : Pos) (e : JEntry) (s : State) : Waits s (handLoose i pos e s) := (Waits.refl s).congr (by simp)

theorem waits_rejectRecord (i : Nat) (pos : Pos) (w : Reason) (pt : Option PointNo) (a : Option (BitVec 64)) (s : State) :
    Waits s (rejectRecord i pos w pt a s) := by
  unfold rejectRecord
  split
  · exact Waits.refl s
  · exact Waits.trans ((waits_handLoose ..).congr (by rfl)) (waits_post ..)

theorem waits_dropLate (i : Nat) (c : Chan) (full : Bool) (r : Rec) (s : State) : Waits s (dropLate i c full r s) :=
  Waits.trans (waits_handLoose ..) (waits_post ..)

theorem waits_lateRecord (i : Nat) (r : Rec) (s : State) : Waits s (lateRecord i r s) := by
  simp only [lateRecord]
  repeat' split
  · exact Waits.refl s
  · exact Waits.trans ((Waits.refl s).congr (by rfl)) (waits_dropLate ..)
  · exact (Waits.refl s).congr (by rfl)
  · exact Waits.trans ((Waits.refl s).congr (by rfl)) (waits_dropLate ..)

theorem waits_rejudgeChan (s : State) (i : Nat) : Waits s (rejudgeChan s i) := by
  unfold rejudgeChan
  split
  · exact Waits.refl s
  · exact foldl_waits _ (fun u r => Waits.trans ((Waits.refl u).congr (by rfl)) (waits_lateRecord ..)) _ _

theorem waits_rejudgeAll (s : State) : Waits s (rejudgeAll s) := foldl_waits _ (fun u i => waits_rejudgeChan u i) _ _

theorem waits_retimeRec (i : Nat) (off : Int) (s : State) (r : Rec) : Waits s (retimeRec i off s r) := by
  simp only [retimeRec]
  repeat' split
  · exact Waits.trans ((Waits.refl s).congr (by rfl)) (waits_rejectRecord ..)
  · exact Waits.trans ((Waits.refl s).congr (by rfl)) (waits_lateRecord ..)
  · exact (Waits.refl s).congr (by rfl)

theorem waits_retimeChan (b : BitVec 4) (off : Int) (s : State) (i : Nat) : Waits s (retimeChan b off s i) := by
  unfold retimeChan
  repeat' split
  · exact Waits.refl s
  · exact Waits.trans ((Waits.refl s).congr (by rfl)) (foldl_waits _ (fun u r => waits_retimeRec _ _ u r) _ _)
  · exact Waits.refl s

theorem waits_skewTransfer (b : BitVec 4) (new : Word32) (s : State) : Waits s (skewTransfer b new s) := by
  simp only [skewTransfer]
  split
  · exact (Waits.refl s).congr (by simp)
  · refine Waits.trans ?_ (foldl_waits _ (fun u i => waits_retimeChan _ _ u i) _ _)
    exact (Waits.refl s).congr (by simp)

theorem waits_transferSkew (s : State) (k : Nat) : Waits s (transferSkew s k) := by
  unfold transferSkew
  split
  · exact Waits.refl s
  · exact waits_skewTransfer ..

theorem waits_transferSkews (s : State) : Waits s (transferSkews s) := by
  have h := foldl_waits _ (fun u i => waits_transferSkew u i) (List.range 16) s
  exact h.congr (by simp only [transferSkews, State.updLane_ntc])

theorem waits_applySet (s : State) (i : Nat) : Waits s (applySet s i) := by
  simp only [applySet]
  split
  · exact Waits.refl s
  · split
    · exact Waits.refl s
    · refine Waits.trans ?_ (waits_recomputeChan _ _)
      split
      · refine Waits.trans ?_ (waits_post _ _)
        exact (Waits.refl s).congr (by rfl)
      · exact (Waits.refl s).congr (by rfl)

theorem waits_applySets (s : State) : Waits s (applySets s) := foldl_waits _ (fun u i => waits_applySet u i) _ _

theorem waits_settle (s : State) : Waits s (settle s) := by
  unfold settle
  have h : Waits (recomputeLive s) (anchorClear (recomputeLive s)) := (Waits.refl _).congr (by simp)
  refine (Waits.trans (Waits.trans ?_ h) (waits_laneTests _)).congr (by simp)
  unfold recomputeLive
  split
  · exact Waits.refl s
  · exact waits_recomputeAll s

theorem waits_closeEvent (s : State) : Waits s (closeEvent s) := (Waits.refl s).congr (by simp)

/-- A notice posted in `u` is posted in the event from `s` to `t`, where the steps before the post leave the map, the mask and the ring
writes' working, and those after it leave what is owed and what waits. -/
theorem PostsIn.of_post {n : Notice} {s u t : State} (hr : u.regions = s.regions) (hm : u.ntc.mask = s.ntc.mask)
    (hw : u.ntc.works = s.ntc.works) (ho : (post n u).path.own <+: t.path.own) (hq : Waits (post n u) t) : PostsIn n s t := by
  intro g hg hmask hworks
  unfold Waits at hq
  simp only [post, hr, hg, hm, hmask, hw, hworks, Bool.not_true, Bool.false_eq_true, if_false] at ho hq
  split at ho
  · rename_i h
    refine .inl ⟨u.ntc.produced, ?_⟩
    obtain ⟨q, hq1, hq2⟩ := owesWrite_genWrite .noticeWrite (g.nBase + 32 * (u.ntc.produced.toNat % 2 ^ g.nExp)) n.encode u
    exact ⟨q, ho.subset hq1, hq2⟩
  · rename_i h
    simp only [h, if_false, Bool.false_eq_true] at hq
    split at hq
    · exact .inr (.inl (hq.subset (by simp [bufferNotice])))
    · rename_i h1
      split at hq
      · exact .inr (.inl (hq.subset (by simp [bufferNotice])))
      · rename_i h2
        refine .inr (.inr ?_)
        have hl := hq.length_le
        rw [(discardNotice_fields u).2.2.1] at hl
        cases he : n.body.cls.essential
        · have h3 : ¬ u.ntc.overflow.length < 8 := fun hc => h2 (by rw [he]; exact decide_eq_true hc)
          simp only [Bool.false_eq_true, if_false]; omega
        · have h3 : ¬ u.ntc.overflow.length < 48 := fun hc => h1 (by rw [he]; exact decide_eq_true hc)
          simp only [if_true]; omega

end Sys2Proof.Machine
end

