-- ==== Sys2Proof/Tests/Slice0.lean ====
section
/-! SUPPORT. Tests: what the well-formedness check refuses; states that meet the hypotheses of the statements, clause by clause; single
steps on small states. -/

namespace Sys2Proof.Tests

open Sys2Proof.Machine

set_option Elab.async false

/-! ## Well-formedness (R158) -/

def rd (a : Addr) (n : Nat) : Req := { tag := 1, addr := a, len := n, kind := .read }

def wr (a : Addr) (bs : List Byte) (m : List Bool) : Req := { tag := 1, addr := a, len := bs.length, kind := .write bs m }

def full (a : Addr) (bs : List Byte) : Req := wr a bs (List.replicate bs.length true)

theorem test_wf_read : (rd 0x10008 16).wf = true := by decide
theorem test_wf_misaligned : (rd 0x10004 8).wf = false := by decide
theorem test_wf_length_zero : (rd 0x10000 0).wf = false := by decide
theorem test_wf_length_odd : (rd 0x10000 12).wf = false := by decide
theorem test_wf_length_long : (rd 0x10000 72).wf = false := by decide
theorem test_wf_crosses_line : (rd 0x10038 16).wf = false := by decide
theorem test_wf_data_length : ({ rd 0x10000 8 with kind := .write [0] (List.replicate 8 true) } : Req).wf = false := by decide
theorem test_wf_mask_length : (wr 0x10000 (leBytes 8 0) [true]).wf = false := by decide
theorem test_wf_kind_named : (Instr.pointRead (full 0x10000 (leBytes 8 0))).wf = false ∧
    (Instr.aliasRead (full 0x10000 (leBytes 8 0))).wf = false ∧ (Instr.windowWrite (rd 0x10000 8)).wf = false ∧
    (Instr.aliasWrite (rd 0x10000 8)).wf = false ∧ (Instr.partOwnedWrite (rd 0x10000 8)).wf = false := by decide
theorem test_wf_response_data : (Instr.memoryResponse 0 .ok [1, 2, 3]).wf = false := by decide
theorem test_ill_formed_faults : exec (.passRequest (rd 0x10004 8)) State.reset = .fault .linkViolation := rfl
theorem test_no_word_decodes (n w : Nat) : decodeTableWord n w = none := rfl

/-! ## Small states -/

/-- What a command answers, where it answers a next state. -/
def after (i : Instr) (s : State) : Option State :=
  match exec i s with
  | .next t => some t
  | .fault _ => none
  | .refused _ => none

def tRegions : Regions :=
  { pwBase := 0x10000, awBase := 0x20000, points := 6, statusPoints := 4, jBase := 0x40000, jExp := 12, nBase := 0x80000, nExp := 6 }

def tEntry (k : PKind) : DirEntry :=
  { kind := k, sel := .live, lastGood := none, lastChange := none, dwell := 0, policy := .pin }

def tDir : List DirEntry := List.replicate 4 (tEntry .status) ++ List.replicate 2 (tEntry .analog)

def tChan : Chan :=
  { phys := 3, base := 0x30000, k := 4, start := 0, skewSet := 0, late := .drop, anchor := false, pendSet := none, closed := false,
    retain := 0, cursor := 0, fetch := 2, fill := 2, heads := [], unj := [], lastTs := some 10, lastCt := some 10, floor := 0,
    expSeq := some 7, rejected := 0, lateCount := 0, lagging := false, st := .empty }

/-- A configured part, its lane STOPPED, with one channel. -/
def tBase : State :=
  { State.reset with
    regions := some tRegions
    dir := tDir
    front := { State.reset.front with chans := [tChan] }
    merge := { State.reset.merge with quantum := 1000, window := 500, limit := 5 }
    lane := { State.reset.lane with lane := .stopped }
    ntc := { State.reset.ntc with works := true, lineEn := true, mask := 0xF } }

def inLane (l : LaneState) (s : State) : State := s.updLane fun t => { t with lane := l }

def withChan (c : Chan) (s : State) : State := s.updFront fun f => { f with chans := [c] }

/-- A descriptor of a command code and parameters from byte 8, with its check word (R205). -/
def tDesc (code : Nat) (ps : List Byte) : List Byte :=
  let body := fun (n : Nat) => leBytes 4 1 ++ leBytes 2 n ++ leBytes 2 code ++ padTo 56 ps
  body (65535 - onesSum (descBlock (body 0)))

/-- The part with a descriptor fetched for slot 0. -/
def asked (code : Nat) (ps : List Byte) (s : State) : State := s.updCmd fun c => { c with phase := .fetched (some (tDesc code ps)) }

def inPhase (ph : CmdPhase) (s : State) : State := s.updCmd fun c => { c with phase := ph }

def meets (code : Nat) (ps : List Byte) (s : State) : Bool :=
  (asked code ps s).command code == some (tDesc code ps) && taken code s.lane.lane

def tWord : PointWord := { value := 1, quality := 0, count := 4, source := 0, phase := 0 }

/-- A 32-byte history record with its check word (FORMAT.RECORD). -/
def tRecord (ts point kind value seq : Nat) : List Byte :=
  let body := fun (n : Nat) => leBytes 8 ts ++ leBytes 2 point ++ leBytes 1 kind ++ leBytes 1 0 ++ leBytes 4 value ++
    leBytes 4 seq ++ leBytes 8 0 ++ leBytes 2 n ++ leBytes 2 0
  body (65535 - onesSum (body 0))

def tRec (point : PointNo) (k : RecKind) (v : Word32) (ct : Time) (pos : Pos) : Rec :=
  { pos := pos, ts := ct, ct := ct, kind := k, point := point, quality := 0, value := v, arch := 0 }

/-- The answer to own request `n`, of length `data.length`. -/
def tRet (n : Nat) (o : Origin) (st : MemStatus) (data : List Byte) : Ret :=
  { req := { serial := n, origin := o, addr := 0x100, len := data.length, kind := .read }, status := st, data := data }

def answered (r : Ret) (s : State) : State := s.updPath fun p => { p with returns := [r] }

def tFlight : Flight :=
  { late := false, split := false, tg := 1000, phase := .forming, done := 0, reading := none, writes := [],
    hits := List.replicate 32 none }

def flying (f : Flight) (s : State) : State := s.updCommit fun c => { c with fly := some f }

def tItem (b : ItemBody) : Item := { body := b, time := 1200, chan := 0, pos := 0, keyTime := 1200, late := false }

def tHeld : HeldItem := { value := 2, quality := 0, time := 900, chan := 0, pos := 0 }

def tDwell (v : Word32) : DwellEntry := { point := 1, item := { tHeld with value := v }, release := 1500 }

def tWalk : Walk :=
  { back := false, endPos := 2, targetC := some 50, toRemove := 1, groups := 0, removed := 0, stop := false, phase := .announced,
    undone := 0, groupStep := false, reading := none, cur := none, writes := [], snap := { r := 0, f := 0, c := 0, group := 0 } }

def walking (w : Walk) (s : State) : State :=
  (inLane .rewinding s).updJrn fun j => { j with head := 5, oldest := 0, walk := some w }

def tOvr : OvrEntry := { point := 1, value := 3, quality := 0, policy := .once, originR := 0, originGroup := 0 }

def tMark : Mark := { pos := 2, r := 0, f := 0, c := 0, group := 0 }

def tNotice : Notice := tBase.notice (.hold .watch 0)

def fullBuffer (s : State) : State := s.updNtc fun n => { n with overflow := List.replicate 48 tNotice }

/-! ## Meeting the hypotheses: requests and the memory side -/

theorem test_meets_EmptyQueueIsWallTime : State.reset.pending = [] ∧ State.reset.lane.holds.anchorStarved = false := by decide

def tOwn (n : Nat) (o : Origin) (k : ReqKind) (len : Nat) : OwnReq := { serial := n, origin := o, addr := 0x10000, len := len, kind := k }

theorem test_meets_OutcomesOfCommands : (Instr.passRequest (rd 0x10004 8)).wf = false ∧ Instr.run.wf = true ∧
    (Instr.memoryResponse 2 .ok tWord.toBytes).wf = true ∧ (Issued.own (tOwn 0 .commitRead .read 8)).dataOk .ok tWord.toBytes = true := by decide

theorem test_meets_ResetLeaves : State.reset.path.held.length < 16 ∧ State.reset.path.answers.length < 64 := by decide

def tFormed : State := flying tFlight (inLane .running tBase)

def tAnnounced : State := flying { tFlight with phase := .announced } (inLane .running tBase)

theorem test_meets_RequestsTaken : tBase.canTake = true ∧ (rd 0x10008 8).wf = true ∧ (full 0x20000 (leBytes 8 0)).wf = true ∧
    tBase.region 0x10008 = .point ∧ tBase.region 0x20000 = .aliasWin ∧ tBase.holding = false ∧ tAnnounced.holding = true ∧
    tAnnounced.canTake = true ∧ tBase.region 0x1000 = .none ∧ tBase.region 0x1800 = .partOwned ∧ tBase.region 0x40000 = .partOwned ∧
    tBase.region 0x30000 = .ring ∧ tBase.region 0x800 = .snooped ∧ tBase.region 0x10030 = .point ∧
    tBase.region 0x10040 = .none := by decide

def tClaim : Req := full 0x10008 (leBytes 8 0x7F00000003)

theorem test_meets_WindowWriteJudged : tClaim.wf = true ∧ tBase.region tClaim.addr.toNat = .point ∧
    (Req.words tClaim tRegions).any (WriteWord.refuses tRegions.points) = false ∧
    (tBase.newClaims (Req.words tClaim tRegions)).length = 1 ∧
    (Req.words (full 0x10030 (leBytes 8 0)) tRegions).any (WriteWord.refuses tRegions.points) = true ∧
    (Req.words (wr 0x10008 (leBytes 8 0) [true, false, false, false, false, false, false, false]) tRegions).any
      (WriteWord.refuses tRegions.points) = true := by decide

def tCrowded : State := tBase.setOvr ((List.range 256).map fun i => { tOvr with point := BitVec.ofNat 16 (i + 20) })

theorem test_meets_WindowWriteJudged_full : tCrowded.ovrFree = 0 ∧ tCrowded.canTake = true ∧
    (tCrowded.newClaims (Req.words tClaim tRegions)).length = 1 := by decide +kernel

theorem test_meets_PresentedWord : findOvr (tBase.setOvr [tOvr]).ovr 1 = some tOvr ∧ findOvr tBase.ovr 1 = none ∧
    tBase.dirAt 1 = some (tEntry .status) := by decide

def tFwd (r : Req) (c : FClass) : Fwd := { id := 0, req := r, cls := c }

def offering (side : Side) (s : State) : State :=
  s.updPath fun p => { p with offer := some side, fwd := [tFwd (rd 0x10000 8) .point], ownQ := [tOwn 0 .commitRead .read 8],
                              waiting := [tOwn 1 .commitRead .read 8] }

theorem test_meets_MemorySideTakesOffer : (offering .own tBase).rewriteOwed = false ∧ (offering .own tBase).path.offer = some .own ∧
    (offering .fwd tBase).path.offer = some .fwd ∧ (offering .fwd tBase).judged (tFwd (rd 0x10000 8) .point) = false ∧
    (offering .own tBase).path.ownQ.length < 32 := by decide

/-- The head reads the line an own write waits to write; own traffic is queued. -/
def tHeadWaits : Path :=
  ({ Path.reset with ownQ := [tOwn 0 .commitWrite (.write [1] [true]) 1, tOwn 1 .commitRead .read 8] } : Path).pushFwd
    (tFwd (rd 0x10008 8) .point)

theorem test_meets_MemorySideTakesOffer_notes : tHeadWaits.headNote = [0] ∧ tHeadWaits.headEligible = false ∧
    ({ tHeadWaits with ownQ := [tOwn 1 .commitRead .read 8] } : Path).headEligible = true ∧
    tHeadWaits.choose true = some .own := by decide

theorem test_meets_MemorySideTakesOffer_choice :
    ({ tHeadWaits with ownQ := [tOwn 1 .commitRead .read 8] } : Path).choose true = some .fwd ∧
    ({ tHeadWaits with ownQ := [tOwn 1 .commitRead .read 8], pass := 3 } : Path).choose true = some .own ∧
    ({ tHeadWaits with ownQ := [] } : Path).choose false = none ∧
    ({ tHeadWaits with offer := some .fwd } : Path).choose true = some .fwd := by decide

def outstanding (w : Issued) (s : State) : State := s.updPath fun p => { p with outst := [{ tag := 2, what := w }] }

theorem test_meets_MemoryResponseMatched :
    (outstanding (.fwd (tFwd (rd 0x10000 8) .point)) tBase).path.outst.find? (Outst.hasTag 2) =
      some { tag := 2, what := .fwd (tFwd (rd 0x10000 8) .point) } ∧
    (outstanding (.own (tOwn 0 .descRead .read 64)) tBase).path.outst.find? (Outst.hasTag 2) =
      some { tag := 2, what := .own (tOwn 0 .descRead .read 64) } ∧
    tBase.path.outst.find? (Outst.hasTag 2) = none ∧ tWord.toBytes.length = 8 := by decide

/-- Validation with some lines and entries read, and the answer to its read of origin `o` outstanding. -/
def validating (recs : List (Nat × Option (List Byte))) (o : Origin) (len : Nat) : State :=
  inPhase (.validating recs [] 0) (outstanding (.own (tOwn 0 o .read len)) State.reset)

/-- A first line that enables channels 0 and 9. -/
def tEnabling : List Byte := leBytes 56 0 ++ [1, 2] ++ leBytes 6 0

theorem test_meets_MemoryResponseMatched_validation :
    (after (.memoryResponse 2 .ok tEnabling) (validating [] (.recordRead 0) 64)).map (·.cmd.phase) =
      some (.validating [(0, some tEnabling)] [] 0) ∧
    (after (.memoryResponse 2 .memerr []) (validating [(0, some tEnabling)] (.recordRead 1) 64)).map (fun t =>
      (t.cmd.phase, t.path.ownQ.map (·.addr))) =
      some (.validating [(0, some tEnabling), (1, none)] [] 2, [0x1000, 0x1120]) ∧
    (after (.memoryResponse 2 .ok (leBytes 32 7)) (validating [] (.tableRead 9) 32)).map (·.cmd.phase) =
      some (.validating [] [(9, some (leBytes 32 7))] 0) := by decide +kernel

def tReady : State := tBase.updPath fun p => { p with answers := [{ id := 0, tag := 3, win := true, resp := some (refusal 3) }] }

theorem test_meets_ProcessorResponseSent :
    tReady.path.answers.find? (fun x => x.tag == 3) = some { id := 0, tag := 3, win := true, resp := some (refusal 3) } := by decide

/-! ## A µs of wall time in a lane that an anchor holds -/

/-- HOLDING with hold reasons `h`, to return to STEPPING; a record at time 20 is next. -/
def holdingOn (h : Holds) (s : State) : State :=
  (inLane .holding (withChan { tChan with heads := [.checked (tRec 1 .status 1 20 1)], st := .primed } s)).updLane fun t =>
    { t with holds := h, resume := .stepping }

def tStarved : Holds := { Holds.none with anchorStarved := true }

/-- The anchor, channel 5, blocks the group of that record. -/
def tAnchored : State :=
  (holdingOn tStarved tBase).updFront fun f => { f with chans := f.chans ++ [{ tChan with phys := 5, anchor := true }] }

def tStopAt : State := (holdingOn tStarved tBase).updLane fun t => { t with stopTime := some 7 }

theorem test_meets_EmptyQueueIsWallTime_anchor : tAnchored.pending = [] ∧ tAnchored.live = true ∧ tAnchored.anchorBlocks = true ∧
    (holdingOn tStarved tBase).anchorBlocks = false ∧ (holdingOn tStarved tBase).historyEnded = false ∧
    (holdingOn tStarved tBase).lane.stopTime = none ∧ (holdingOn { tStarved with watch := true } tBase).anchorBlocks = false ∧
    (tick tAnchored).lane = tAnchored.lane ∧ (tick (holdingOn tStarved tBase)).lane.lane = .stepping ∧
    (tick (holdingOn { tStarved with watch := true } tBase)).lane.holds = { Holds.none with watch := true } := by decide +kernel

theorem test_meets_EmptyQueueIsWallTime_stopTime : (tStopAt.updMerge fun m => { m with quantum := 10 }).nextTg = some 20 ∧
    tStopAt.lane.resume = .stepping ∧ tStopAt.historyEnded = false ∧
    (tick (tStopAt.updMerge fun m => { m with quantum := 10 })).lane.holds = { Holds.none with stopTime := true } ∧
    (tick (tStopAt.updMerge fun m => { m with quantum := 10 })).lane.c = 7 := by decide +kernel

/-! ## Writes judged at the head -/

def atHead (r : Req) (c : FClass) (s : State) : State :=
  s.updPath fun p => { p with fwd := [tFwd r c], offer := some .fwd }

def tGuarded : Req := full 0x30000 (leBytes 32 0)
def tUnguarded : Req := full 0x30040 (leBytes 32 0)

theorem test_meets_RingWriteJudged : (atHead tGuarded .guarded tBase).path.headEligible = true ∧
    (tBase.guardRefuses tGuarded).map (·.1) = some 0 ∧ tBase.guardRefuses tUnguarded = none ∧ tChan.k ≤ 32 ∧
    tChan.guardsSlot 1 = true ∧ tChan.guardsSlot 2 = false := by decide

/-- The fill count and closed flag of the test channel's table entry. -/
def tFillWrite (fill closed : Nat) : Req :=
  wr 0x1070 (leBytes 4 fill ++ leBytes 4 closed) [true, true, true, true, true, false, false, false]

theorem test_meets_ChannelFieldsJudged : tBase.region 0x1070 = .snooped ∧ tBase.coversFill (tFillWrite 5 1) = true ∧
    tBase.coversClosed (tFillWrite 5 1) = true ∧ tBase.fillValid tChan (tFillWrite 5 1) = true ∧
    tBase.closedValid tChan (tFillWrite 5 1) = true ∧ tBase.slotOf (tFillWrite 5 1) = none ∧
    tBase.coversConsumed (tFillWrite 5 1) = false ∧ tBase.fillValid tChan (tFillWrite 16 0) = true ∧
    tBase.fillValid tChan (tFillWrite 17 0) = false ∧ tBase.fillValid tChan (tFillWrite 1 0) = false ∧
    tBase.fillValid tChan (tFillWrite 2 0) = true ∧ tBase.closedValid { tChan with closed := true } (tFillWrite 2 0) = false ∧
    tBase.fillValid { tChan with closed := true } (tFillWrite 2 0) = true := by decide

/-- The write closes a channel with nothing remaining: DRAINED, with one notice; a LAGGING one too. -/
theorem test_meets_ChannelFieldsJudged_drained : ({ tChan with closed := true } : Chan).calc = .drained ∧ tChan.st ≠ .drained ∧
    (after .closedFlagWrite (atHead (tFillWrite 2 1) .snooped tBase)).map (fun t => (t.front.chans.map (·.st), t.ntc.produced)) =
      some ([.drained], 1) ∧
    (after .closedFlagWrite (atHead (tFillWrite 2 1) .snooped (withChan { tChan with lagging := true, st := .lagging } tBase))).map
      (fun t => (t.front.chans.map (·.st), t.ntc.produced)) = some ([.drained], 1) := by decide +kernel

/-- Fill counts and closed flags of channels 2 and 3, whose entries share a line. -/
def tTwoFills (f2 c2 f3 c3 : Nat) : Req :=
  let m := [true, true, true, true, true, false, false, false]
  wr 0x1050 (leBytes 4 f2 ++ leBytes 4 c2 ++ leBytes 24 0 ++ leBytes 4 f3 ++ leBytes 4 c3) (m ++ List.replicate 24 false ++ m)

/-- Channels 2 and 3, channel 2 closed. -/
def tTwo : State := tBase.updFront fun f => { f with chans := [{ tChan with phys := 2, closed := true }, tChan] }

theorem test_meets_ChannelFieldsJudged_several : (tTwoFills 2 1 2 0).wf = true ∧ (tTwo.invalidFields (tTwoFills 2 1 2 0)) = [] ∧
    (tTwo.invalidFields (tTwoFills 2 1 1 0)).map (·.body) = [.fillInvalid false 1] ∧
    (tTwo.invalidFields (tTwoFills 3 0 1 0)).map (·.body) = [.fillInvalid false 3, .fillInvalid true 0, .fillInvalid false 1] ∧
    tTwo.coversFill (tTwoFills 3 0 1 0) = true ∧ tTwo.coversConsumed (tTwoFills 3 0 1 0) = false ∧
    (after .fillCountWrite (atHead (tTwoFills 3 0 1 0) .snooped tTwo)).map (fun t => (t.ntc.produced, t.path.fwd)) = some (3, []) := by
  decide +kernel

def tCount (n : Nat) : Req := wr 0x200 (leBytes 8 n) [true, true, true, true, false, false, false, false]

def tWaiting : State := (tBase.updNtc fun n => { n with produced := 64, overflow := [tNotice] })

theorem test_meets_ConsumedCountJudged : tBase.region 0x200 = .snooped ∧ tWaiting.coversConsumed (tCount 64) = true ∧
    coversAll (tCount 64) (tWaiting.cbBase + 0x200) 4 = true ∧ tWaiting.newConsumed (tCount 64) = 64 ∧
    tWaiting.consumedValid (tCount 64) = true ∧ tWaiting.consumedValid (tCount 65) = false ∧
    tWaiting.consumedValid (tCount 0) = true ∧ tWaiting.slotOf (tCount 64) = none ∧ tWaiting.coversFill (tCount 64) = false ∧
    tWaiting.coversClosed (tCount 64) = false := by decide

/-- HOLDING on NOTICE_FULL, and on WATCH too where `w`, with one notice waiting and the ring full. -/
def tNoticeHeld (w : Bool) : State :=
  (inLane .holding tWaiting).updLane fun t => { t with holds := { Holds.none with watch := w, noticeFull := true } }

theorem test_meets_ConsumedCountJudged_hold : (∀ c ∈ (tNoticeHeld false).front.chans, c.calc = c.st) ∧
    (tNoticeHeld false).historyEnded = false ∧ ((tNoticeHeld false).ntc.produced - 64).toNat + 1 ≤ 2 ^ tRegions.nExp ∧
    (after .consumedCountWrite (atHead (tCount 64) .snooped (tNoticeHeld false))).map (fun t => (t.lane.lane, t.lane.holds)) =
      some (.running, Holds.none) ∧
    (after .consumedCountWrite (atHead (tCount 64) .snooped (tNoticeHeld true))).map (fun t => (t.lane.lane, t.lane.holds)) =
      some (.holding, { Holds.none with watch := true }) := by decide +kernel

def tOwner (slot v : Nat) : Req := wr (BitVec.ofNat 40 (0x800 + 64 * slot)) (leBytes 8 v) [true, true, true, true, false, false, false, false]

theorem test_meets_OwnerWordJudged : tBase.slotOf (tOwner 0 1) = some 0 ∧ tBase.slotBusy ≠ some 0 ∧
    (asked 3 [] tBase).slotBusy = some 0 ∧ coversAll (tOwner 0 1) (tBase.slotAddr 0) 4 = true ∧
    leNat (bytesAt (tOwner 0 1) (tBase.slotAddr 0) 4) = 1 ∧ tBase.slotOf (tOwner 31 1) = some 31 ∧
    leNat (bytesAt (tOwner 31 0) (tBase.slotAddr 31) 4) = 0 ∧ tBase.coversFill (tOwner 0 1) = false ∧
    tBase.coversClosed (tOwner 0 1) = false ∧ tBase.coversConsumed (tOwner 0 1) = false := by decide

/-- Slot N is written INTERPOSER while an UNCONFIGURE takes effect. -/
theorem test_meets_OwnerWordJudged_draining : (inPhase .draining tBase).slotBusy = none ∧ (inPhase .draining tBase).cmd.n = 0 ∧
    (after .ownerWordWrite (atHead (tOwner 0 1) .snooped (inPhase .draining tBase))).map (fun t => (t.cmd.phase, t.cmd.pend)) =
      some (.draining, [0]) := by decide +kernel

theorem test_meets_NoticeTaken : tNotice.body.cls.masked tBase.ntc.mask = false ∧ tBase.ntc.works = true ∧
    tBase.ringRoom tRegions = true ∧ (NClass.record).masked 0 = true ∧
    (tBase.updNtc fun n => { n with produced := 64 }).ringRoom tRegions = false ∧ State.reset.ntc.works = false ∧
    48 ≤ (fullBuffer tBase).ntc.overflow.length := by decide

/-- A DWELL_FULL with an archive reference, a RING_GUARD, and a REWIND_ENDED of a STEP_BACK. -/
theorem test_meets_NoticeTaken_record :
    ({ tNotice with point := some 0x0102, chan := some (3, 0), arch := some 0x0807060504030201, body := .dwellFull } : Notice).encode =
      [0x72, 1] ++ timeBytes tNotice.time ++ leBytes 4 tNotice.group.toNat ++ [2, 1, 3, 0, 0, 0, 0, 0, 0, 0, 0, 0, 1, 2, 3, 4, 5, 6, 7, 8] ∧
    ({ tNotice with point := none, chan := none, arch := none, body := .ringGuard 0x0504030201 6 7 } : Notice).encode.drop 12 =
      [0xFF, 0xFF, 0xFF, 0xFF, 1, 2, 3, 4, 5, 0, 0, 0, 6, 0, 0, 0, 7, 0, 0, 0] ∧
    ({ tNotice with arch := none, body := .rewindEnded .complete true 2 1 3 4 } : Notice).encode.take 2 = [6, 130] ∧
    ({ tNotice with arch := none, body := .rewindEnded .complete true 2 1 3 4 } : Notice).encode.drop 12 =
      [2, 0, 0, 1, 3, 0, 0, 0, 0, 0, 4, 0, 0, 0, 0, 0, 0, 0, 0, 0] := by decide

theorem test_meets_NoticeTaken_arch : ({ tNotice with arch := some 1, body := .dwellFull } : Notice).archOk :=
  fun _ => .inr (.inr rfl)

/-! ## Channel Front and journal -/

def tFlightChan : Chan := { tChan with heads := [.inflight 9 1], fetch := 2 }

/-- A fetch of the test channel's position 1 has returned. -/
def fetched (c : Chan) (st : MemStatus) (data : List Byte) (s : State) : State :=
  answered (tRet 9 (.fetch 3) st data) (withChan { c with heads := [.inflight 9 1], fetch := 2 } s)

theorem test_meets_FetchIssuedOrDropped : (withChan { tChan with fetch := 1 } tBase).logical 3 = some 0 ∧
    (withChan { tChan with fetch := 1 } tBase).placesUsed { tChan with fetch := 1 } = 0 ∧
    (tBase.path.waiting.any fun r => r.origin.isFetch) = false ∧
    (answered (tRet 9 (.fetch 3) .ok []) (tBase.updFront fun f => { f with discarded := [{ serial := 9, chan := some 3 }] })).path.ret
      (tBase.updFront fun f => { f with discarded := [{ serial := 9, chan := some 3 }] }).isDiscardedRet =
      some (tRet 9 (.fetch 3) .ok []) := by decide

theorem test_meets_RecordRejected : (fetched tChan .memerr [] tBase).path.ret (Ret.isFor 9) = some (tRet 9 (.fetch 3) .memerr []) ∧
    tFlightChan.nextLoad = some (9, 1) ∧ tBase.recordFault tChan (leBytes 32 0) = some .check ∧
    tBase.recordFault tChan (tRecord 9 1 1 1 7) = some .order ∧ tBase.recordFault tChan (tRecord 20 1 1 4 7) = some .range ∧
    tBase.recordFault tChan (tRecord 20 4 1 1 7) = some .kind ∧ tBase.recordFault tChan (tRecord 20 6 1 1 7) = some .point := by
  decide +kernel

theorem test_meets_AcceptedRecordDisposed : tBase.recordFault tChan (tRecord 20 1 1 1 7) = none ∧
    rawKind (tRecord 20 1 1 1 7) = some .status ∧ rawTimestamp (tRecord 20 1 1 1 7) = 20 ∧ tBase.offsetOf tChan = 0 ∧
    rawKind (tRecord 20 0 4 0 8) = some .alive ∧ tBase.recordFault tChan (tRecord 20 0 4 0 8) = none ∧
    rawSequence (tRecord 20 0 4 0 8) = 8 ∧ tBase.stagerRoom = true ∧ tChan.expSeq = some 7 := by decide +kernel

theorem test_meets_KindAndPointTests : onesSum (tRecord 20 4 1 1 7) = 65535 ∧ rawKind (tRecord 20 4 1 1 7) = some .status ∧
    onesSum (tRecord 20 6 2 1 7) = 65535 ∧ rawKind (tRecord 20 6 2 1 7) = some .analog ∧ tBase.points = 6 ∧
    rawKind (tRecord 20 0 3 1 7) = some .marker ∧ rawKind (tRecord 20 0 5 1 7) = none ∧
    ((tRec 1 .marker 5 20 1).item 0 false false).body = .marker 1 5 0 := by decide +kernel

theorem test_meets_KindAndPointTests_before : onesSum (leBytes 32 0) ≠ 65535 ∧ onesSum (tRecord 9 1 1 1 7) = 65535 ∧
    rawTimestamp (tRecord 9 1 1 1 7) = 9 ∧ tChan.lastTs = some 10 ∧ onesSum (tRecord 20 1 1 4 7) = 65535 ∧
    rawTimestamp (tRecord (2 ^ 48) 1 1 1 7) = 2 ^ 48 ∧ (rawValue (tRecord 20 1 1 4 7)).toNat = 4 ∧
    tBase.recordFault tChan (tRecord (2 ^ 48) 1 1 1 7) = some .range ∧ tBase.recordFault tChan (tRecord 10 1 1 3 7) = none := by
  decide +kernel

/-- Late items of times 5, 9 and 9, by logical channel. -/
def tLate (t : Time) (ch : ChanNo) : Item := { tItem (.marker 0 0 0) with time := t, chan := ch, keyTime := t, late := true }

theorem test_meets_AcceptedRecordDisposed_order : tBase.insertItem (tLate 9 1) [tLate 5 4, tLate 9 0, tLate 9 2] =
    [tLate 5 4, tLate 9 0, tLate 9 1, tLate 9 2] ∧ tBase.chanAt 0 = some tChan := by decide

def tLoose : State := answered (tRet 4 (.journalLoose 3 0) .ok []) (withChan { tChan with unj := [(0, 0)], fetch := 1 } tBase)

theorem test_meets_LooseEntryWritten : tLoose.path.ret Ret.isLooseWrite = some (tRet 4 (.journalLoose 3 0) .ok []) ∧
    tLoose.logical 3 = some 0 ∧ tLoose.chanAt 0 = some { tChan with unj := [(0, 0)], fetch := 1 } := by decide

/-- Position 6 is a record's and 5 a release item's in the stager, 2 in the head buffer, 3 not yet journaled. -/
def tHolding : State :=
  tBase.updStager fun g => { g with cur := [{ tItem (.record 1 2 0 0 false) with pos := 6 }, { tItem (.release 1 2 0) with pos := 5 }] }

theorem test_meets_LooseEntryWritten_holding :
    tHolding.holdingBack 0 { tChan with heads := [.inflight 9 2], unj := [(4, 3)] } = [6, 5, 2, 3] ∧
    tHolding.cursorOf 0 { tChan with cursor := 1, heads := [.inflight 9 2], unj := [(4, 3)] } = 2 := by decide

/-- A release item holds the cursor at its held record (R78), or where it stands beyond that record (log 47). -/
theorem test_meets_LooseEntryWritten_release : tHolding.cursorOf 0 { tChan with cursor := 3, fetch := 9, fill := 9 } = 5 ∧
    tHolding.cursorOf 0 { tChan with cursor := 6, fetch := 9, fill := 9 } = 6 ∧
    tBase.cursorOf 0 { tChan with cursor := 3, fetch := 9, fill := 9 } = 9 := by decide

def wrapping (e : JEntry) (st : MemStatus) : State :=
  (answered (tRet 5 .oldestRead st e.encode) tBase).updJrn fun j =>
    { j with head := 4096, wrapRead := some 5, geCount := 1, marks := [{ tMark with pos := 0 }, tMark],
             inq := [{ entry := .marker 0 1, src := .group }] }

theorem test_meets_JournalWraps :
    (wrapping (.marker 0 1) .ok).path.ret (Ret.isFor 5) = some (tRet 5 .oldestRead .ok (JEntry.marker 0 1).encode) ∧
    JEntry.decode (JEntry.marker 0 1).encode = some (.marker 0 1) ∧ (JEntry.marker 0 1).named = some (0, 1) ∧
    (wrapping (.marker 0 1) .ok).jrn.oldest = 0 ∧ (JEntry.groupEnd 0 .timed 0 0 0 0).named = none := by decide +kernel

theorem test_meets_JournalWraps_faulted : (inLane .faulted (wrapping (.marker 0 1) .ok)).lane.lane = .faulted ∧
    (after .journalWrap (inLane .faulted (wrapping (.marker 0 1) .ok))).map (fun t => (t.jrn.oldest, t.jrn.head, t.jrn.marks.length)) =
      some (0, 4096, 2) := by decide +kernel

/-- The overwritten entry moves the retain from 0 to 2, or leaves it where it stands beyond (R29, R201). -/
theorem test_overwrite_rewrites_retain :
    (overwriteOldest (some (.marker 0 1)) false (withChan { tChan with cursor := 2 } tBase)).ntc.due = true ∧
    (overwriteOldest (some (.marker 0 1)) false (withChan { tChan with cursor := 2, retain := 2 } tBase)).ntc.due = false := by decide

/-! ## The merge -/

def tPrimed : Chan := { tChan with heads := [.checked (tRec 1 .status 1 20 1)], st := .primed }

/-- Channel 0 has a record at time 20; channel 1 is EMPTY with known time 10. -/
def tStarving : State :=
  (inLane .running tBase).updFront fun f => { f with chans := [tPrimed, { tChan with phys := 5 }] }

theorem test_meets_BlockingChannels : tStarving.blocked = true ∧ tStarving.nextTg = some 0 ∧
    ({ tChan with fill := 3 } : Chan).calc = .fetching ∧ tChan.known = 10 ∧ tPrimed.calc = .primed := by decide

theorem test_meets_StarvationExpires : (tStarving.updMerge fun m => { m with starve := 5 }).starved = true ∧
    (tStarving.front.chans.all fun c => !c.lagging) = true ∧ tStarving.anchorBlocks = false ∧
    (tStarving.updFront fun f => { f with chans := [tPrimed, { tChan with anchor := true }] }).anchorBlocks = true ∧
    tStarving.lane.holds.isEmpty = true := by decide

/-- Both channels block, the second an anchor: CHANNEL_LAGGING and HOLD are posted. -/
def tBothStarve : State :=
  (inLane .running tBase).updFront fun f => { f with chans := [{ tChan with phys := 5 }, { tChan with anchor := true }] }

theorem test_meets_StarvationExpires_notices : tBothStarve.blockingSet = [0, 1] ∧ tBothStarve.anchorBlocks = true ∧
    (after .starvationExpiry (tBothStarve.updMerge fun m => { m with starve := 5 })).map
      (fun t => (t.front.chans.map (·.st), t.lane.lane, t.ntc.produced)) = some ([.lagging, .empty], .holding, 2) := by decide +kernel

def tPaced (acc : Nat) : State := (inLane .running tBase).updLane fun t => { t with acc := acc }

theorem test_meets_ClockAdvances : (tPaced 2048).paceLimit = 10 ∧ (tPaced 2048).lane.runMode = .paced ∧
    ((2 : Nat) : Int) < (tPaced 2048).paceLimit ∧ (tPaced (1024 * 10)).paceLimit ≤ ((0 + 1024 * 10 / 1024 : Nat) : Int) ∧
    ((tPaced 2048).updLane fun t => { t with c := 10 }).paceLimit ≤ 10 := by decide

theorem test_meets_ClockAdvances_limit : (tPaced 0).safe = some 10 ∧ (withChan { tChan with closed := true } tBase).safe = none ∧
    (withChan { tChan with closed := true } tBase).paceLimit = 2 ^ 48 - 1 ∧
    ((tPaced 0).updLane fun t => { t with stopTime := some 4 }).paceLimit = 4 := by decide

/-- A stop time at or below C leaves the accumulator 0 at once; one above C leaves it (R103). -/
theorem test_meets_ClockAdvances_held :
    (after .setStopTime (asked 7 [1, 0, 0, 0, 0, 0, 0, 0, 4] ((tPaced 600).updLane fun t => { t with c := 7 }))).map
      (fun t => (t.lane.lane, t.lane.c, t.lane.acc)) = some (.running, 7, 0) ∧
    (after .setStopTime (asked 7 [1, 0, 0, 0, 0, 0, 0, 0, 8] ((tPaced 600).updLane fun t => { t with c := 7 }))).map
      (fun t => (t.lane.lane, t.lane.c, t.lane.acc)) = some (.running, 7, 600) := by decide +kernel

theorem test_meets_StateLawsKept_pace : (tPaced 600).paced = true ∧ (tPaced 600).jrn.walk = none ∧
    ¬ (tPaced 600).paceLimit ≤ ((tPaced 600).lane.c.toNat : Int) ∧ tBase.paced = false ∧ tBase.lane.acc = 0 := by decide

/-- A lane in PACED running with the record of time 2000 to come, C at `c` and a stop time. -/
def tNearStop (c stop : Time) (s : State) : State :=
  (inLane .running s).updLane fun t => { t with c := c, acc := 1024, stopTime := some stop }

/-- A record at time 2000 is a timed group of its own: the other channel is known to 4000. -/
def tOffering : State :=
  (inLane .running tBase).updFront fun f =>
    { f with chans := [{ tPrimed with heads := [.checked (tRec 1 .status 1 2000 1)] },
                       { tChan with phys := 5, lastCt := some 4000 }] }

theorem test_meets_GroupAdmitted : tOffering.offered = some (.timed 2000) ∧ tOffering.admits = true ∧
    (tOffering.updLane fun t => { t with runMode := .free }).paced = false ∧
    (tBase.updLane fun t => { t with lane := .running, c := 5 }).admits = true ∧
    ((inLane .running tBase).updStager fun g => { g with late := [tItem (.marker 0 0 0)] }).offered = some .late ∧
    tBase.lane.lane = .stopped := by decide

/-- C reaches the stop time 1999 before the group of 2000; it stands below it; a group is in flight. -/
theorem test_meets_ClockAdvances_stopTime : (tNearStop 1998 1999 tOffering).lane.holds = Holds.none ∧
    (after .paceAdvance (tNearStop 1998 1999 tOffering)).map (fun t => (t.lane.lane, t.lane.holds.bits, t.lane.stopTime, t.nextTg)) =
      some (.holding, 2, none, some 2000) ∧
    (after .paceAdvance (tNearStop 1998 1999 tOffering)).map (fun t => (t.lane.c, t.lane.resume, t.ntc.produced)) =
      some (1999, .running, 1) ∧
    (after .paceAdvance (tNearStop 1990 1999 tOffering)).map (fun t => (t.lane.lane, t.lane.c, t.lane.stopTime)) =
      some (.running, 1991, some 1999) ∧
    (after .paceAdvance (tNearStop 1998 1999 (flying tFlight tOffering))).map (fun t => (t.lane.lane, t.lane.c, t.lane.holds.bits)) =
      some (.running, 1999, 0) := by decide +kernel

/-- Every channel is DRAINED and nothing is left to merge. -/
def tAtEnd : State := withChan { tChan with closed := true, st := .drained } tBase

theorem test_meets_ClockAdvances_end : tAtEnd.historyEnded = true ∧ tAtEnd.merge.ended = false ∧
    (after .paceAdvance (tNearStop 5 90 tAtEnd)).map (fun t => (t.lane.lane, t.lane.c, t.historyEnded, t.ntc.produced)) =
      some (.stopped, 6, true, 1) ∧
    (after .paceAdvance ((tNearStop 5 90 tAtEnd).updMerge fun m => { m with ended := true })).map
      (fun t => (t.lane.lane, t.lane.c)) = some (.running, 6) := by decide +kernel

/-- The stop time 2000 is the limit of C; 2500 lies above it. -/
theorem test_meets_GroupAdmitted_lane :
    (after .groupAdmit (tNearStop 2000 2000 tOffering)).map (·.lane) = some { (tNearStop 2000 2000 tOffering).lane with acc := 0 } ∧
    (after .groupAdmit (tNearStop 2000 2500 tOffering)).map (·.lane) = some (tNearStop 2000 2500 tOffering).lane := by decide +kernel

def staged (l : List Item) (s : State) : State := s.updStager fun g => { g with cur := l }

def crowded (s : State) : State := s.updStager fun g => { g with cur := List.replicate 512 (tItem (.marker 0 0 0)) }

/-- A group of time 1000 forms; the test channel's head is `r`. -/
def forming (r : Rec) (s : State) : State :=
  flying tFlight (withChan { tChan with heads := [.checked r], st := .primed } (inLane .running s))

def held (e : DwellEntry) (s : State) : State := s.updMerge fun m => { m with dwell := [e] }

def tAnalog : Rec := tRec 5 .analog 7 1200 1

theorem test_meets_FormationPulls_end : tFormed.forming = some tFlight ∧ tFormed.mayPull tFlight = true ∧
    tFormed.candidate tFlight = none := by decide

theorem test_meets_FormationPulls_release : (held (tDwell 2) tFormed).mayPull tFlight = true ∧
    (held (tDwell 2) tFormed).candidate tFlight = some ({ time := 1500, chan := 0, dist := 0 }, .dwell (tDwell 2)) ∧
    (held (tDwell 2) tFormed).stagerRoom = true ∧ (crowded (held (tDwell 2) tFormed)).stagerRoom = false := by decide +kernel

theorem test_meets_FormationPulls_head : (forming tAnalog tBase).mayPull tFlight = true ∧
    (forming tAnalog tBase).candidate tFlight = some ({ time := 1200, chan := 0, dist := 1 }, .head 0 tAnalog) ∧
    tAnalog.kind ≠ .status ∧ (forming (tRec 1 .status 1 1200 1) tBase).candidate tFlight =
      some ({ time := 1200, chan := 0, dist := 1 }, .head 0 (tRec 1 .status 1 1200 1)) ∧
    ((tBase.dirAt 1).map (·.dwell)).getD 0 = 0 ∧ findDwell tBase.merge.dwell 1 = none := by decide

/-- Point 1 is filtered with class 1 and was last changed to 1. -/
def filtering (s : State) : State :=
  s.setDirAt 1 fun e => { e with dwell := 1, lastChange := some { time := 5, value := 1, chan := 0 } }

theorem test_meets_ChatterFilter_standing : (staged [tItem (.record 1 9 0 0 false), tItem (.marker 1 3 0)] (filtering tBase)).standing 1 =
      some 9 ∧ Item.sets 1 (tItem (.release 1 8 0)) = some 8 ∧ Item.sets 1 (tItem (.marker 1 3 0)) = none ∧
    (staged [tItem (.record 2 9 0 0 false)] (filtering tBase)).standing 1 = some 1 := by decide

theorem test_meets_FormationPulls_items : (held (tDwell 2) (forming tAnalog tBase)).timedItems =
      [({ time := 1200, chan := 0, dist := 1 }, .head 0 tAnalog), ({ time := 1500, chan := 0, dist := 0 }, .dwell (tDwell 2))] ∧
    (forming (tRec 5 .analog 7 2000 1) tBase).candidate tFlight = none := by decide

def tStatus (v : Word32) : Rec := tRec 1 .status v 1200 1

theorem test_meets_ChatterFilter_choices :
    (((filtering tBase).dirAt 1).map (·.dwell)).getD 0 = 1 ∧ (filtering tBase).standing 1 = some 1 ∧ tBase.standing 1 = none ∧
    (forming (tStatus 1) (filtering tBase)).mayPull tFlight = true ∧
    (forming (tStatus 2) (filtering tBase)).candidate tFlight = some ({ time := 1200, chan := 0, dist := 1 }, .head 0 (tStatus 2)) ∧
    findDwell (held (tDwell 2) tBase).merge.dwell 1 = some (tDwell 2) ∧
    (forming (tStatus 2) (held (tDwell 2) (filtering tBase))).mayPull tFlight = true ∧
    (forming (tStatus 2) (held (tDwell 2) (filtering tBase))).candidate tFlight =
      some ({ time := 1200, chan := 0, dist := 1 }, .head 0 (tStatus 2)) := by decide

theorem test_meets_ChatterFilter_read :
    ((answered (tRet 8 .filterRead .ok tWord.toBytes) (forming (tStatus 2) tBase)).path.ret (Ret.isFor 8)).map (·.status) = some .ok ∧
    ((forming (tStatus 2) tBase).chanAt 0).bind Chan.head = some (tStatus 2) := by decide

/-! ## Group Commit -/

def tMarkerItem : Item := tItem (.marker 2 9 0)
def tRecordItem : Item := tItem (.record 1 2 0 0 false)
def tReleaseItem : Item := tItem (.release 1 2 0)
def tChatterItem : Item := tItem (.chatter 1 tHeld 1500)

theorem test_meets_CommitBegins : (staged [tRecordItem] tAnnounced).announced = some { tFlight with phase := .announced } ∧
    tAnnounced.path.windowReadsOut = false ∧ tAnnounced.capturing = false ∧ tAnnounced.waiterReady = false ∧
    tRecordItem.point = some 1 ∧ tMarkerItem.point = none := by decide

theorem test_meets_CommitBegins_empty : tAnnounced.stager.cur = [] ∧ tAnnounced.readsDone = true ∧
    (after .commitBegin tAnnounced).map (fun t => (t.commit.flag, t.commit.fly.map (·.phase), t.jrn.head, t.path.ownQ.map (·.kind))) =
      some (true, some .ended, 1, [.write (JEntry.groupEnd 0 .timed 1000 0 0 0).encode (List.replicate 32 true)]) := by decide +kernel

def tCommitting : Flight := { tFlight with phase := .committing, reading := some 8 }

/-- The old word of the one item being committed has been read. -/
def committing (it : Item) (s : State) : State :=
  answered (tRet 8 .commitRead .ok tWord.toBytes) (flying tCommitting (staged [it] (inLane .running s)))

def tChanged (t : Time) : State :=
  tBase.setDirAt 1 fun e => { e with lastChange := some { time := t, value := 2, chan := 7 } }

theorem test_meets_AppliedItem : (committing tRecordItem tBase).committing = some tCommitting ∧
    (committing tRecordItem tBase).readyItem tCommitting = some (tRecordItem, tWord) ∧
    isDuplicate 500 2 0 1200 none = false ∧ (committing tReleaseItem tBase).readyItem tCommitting = some (tReleaseItem, tWord) ∧
    ((committing tRecordItem tBase).path.waiting.any fun r => r.origin.isCommit) = false ∧
    findOvr (tBase.setOvr [tOvr]).ovr 1 = some tOvr ∧ tOvr.policy = .once ∧ findOvr tBase.ovr 1 = none := by decide

theorem test_watch_conditions : WatchCond.anyChange.holds tWord { tWord with value := 2 } = true ∧
    WatchCond.anyChange.holds tWord { tWord with quality := 1 } = false ∧ (WatchCond.equals 1).holds tWord tWord = true ∧
    (WatchCond.qualitySet 4).holds tWord { tWord with quality := 4 } = true ∧ (WatchCond.qualitySet 4).holds tWord tWord = false := by
  decide

theorem test_duplicate_window : isDuplicate 500 2 0 1200 (some { time := 700, value := 2, chan := 7 }) = true ∧
    isDuplicate 500 2 0 1200 (some { time := 699, value := 2, chan := 7 }) = false ∧
    isDuplicate 500 2 0 1200 (some { time := 1700, value := 2, chan := 7 }) = true ∧
    isDuplicate 500 2 7 1200 (some { time := 1200, value := 2, chan := 7 }) = false ∧
    isDuplicate 500 3 0 1200 (some { time := 1200, value := 2, chan := 7 }) = false := by decide

theorem test_meets_OtherItems : (committing tRecordItem (tChanged 1000)).readyItem tCommitting = some (tRecordItem, tWord) ∧
    isDuplicate 500 2 0 1200 (((tChanged 1000).dirAt 1).bind (·.lastChange)) = true ∧
    (committing tChatterItem tBase).readyItem tCommitting = some (tChatterItem, tWord) ∧
    ((committing tMarkerItem tBase).readyItem tCommitting).isSome = true := by decide

theorem test_meets_OtherItems_last : (committing tMarkerItem tBase).stager.cur.length = tCommitting.done + 1 ∧
    (committing tMarkerItem tBase).jrn.heldCount + 2 ≤ 2 ^ tRegions.jExp ∧
    (after .commitItem (committing tMarkerItem tBase)).map (fun t => (t.jrn.head, t.commit.fly.map (·.phase))) =
      some (2, some .ended) := by decide +kernel

/-- The answer to a write of the commit is MEMERR: no item is taken (R96). -/
def tFailed : State := (committing tRecordItem tBase).updPath fun p => { p with returns := tRet 7 .commitWrite .memerr [] :: p.returns }

theorem test_meets_OtherItems_fault : tFailed.faultComes = true ∧ (committing tRecordItem tBase).faultComes = false ∧
    tFailed.readyItem tCommitting = some (tRecordItem, tWord) ∧ after .commitItem tFailed = some tFailed ∧
    (answered (tRet 8 (.fetch 3) .memerr []) tBase).faultComes = false := by decide +kernel

/-- A held item that its release precedes by 65,535 ms at most has a lead that 2 bytes hold. -/
theorem test_lead_bound : leadField 65535 = 65535 ∧ leadField 32000 = 32000 ∧ (65535 : Nat) < 65536 := by
  refine ⟨rfl, rfl, by decide⟩

def ended (f : Flight) (l : LaneState) (s : State) : State := flying { f with phase := .ended } (inLane l s)

def tHalt : State := tBase.updCommit fun c => { c with watches := c.watches.set 4 (some { point := 1, cond := .anyChange, halt := true }) }

def tHits : List (Option Hit) :=
  (List.replicate 32 none).set 4 (some { count := 1, time := 1200, value := 2, chan := 0, arch := none })

theorem test_meets_CommitBoundary : (ended tFlight .running tBase).endedFlight = some { tFlight with phase := .ended } ∧
    (ended tFlight .running tBase).commitDone = true ∧ (ended tFlight .running tBase).lane.holds.isEmpty = true ∧
    haltMatched tHalt.commit.watches tHits = true ∧ haltMatched tBase.commit.watches tHits = false ∧
    (tBase.updCmd fun c => { c with phase := .waiting .stop }).stopWaits = true ∧
    tFlight.tg.toNat + tBase.merge.quantum ≤ 2 ^ 48 - 1 ∧ (0xFFFFFFFFFFFF : Time).toNat + 1000 > 2 ^ 48 - 1 := by decide

/-- A group ends in a STEPPING lane with `n` steps left, a pending skew offset 1500 for set 1 and a pending stop time. -/
def tStepping (n : Nat) : State :=
  (ended tFlight .stepping tBase).updLane fun t =>
    { t with steps := n, pend := { t.pend with stopTime := some (some 9000), skew := t.pend.skew.set 1 (some 1500) } }

theorem test_meets_CommitBoundary_step : (tStepping 2).commitDone = true ∧ (tStepping 2).stopWaits = false ∧
    (after .commitBoundary (tStepping 2)).map (fun t => (t.lane.lane, t.lane.steps, t.lane.stepped, t.lane.stopTime)) =
      some (.stepping, 1, 1, some 9000) ∧
    (after .commitBoundary (tStepping 2)).map (fun t => t.front.offsets[1]?) = some (some 1500) ∧
    (after .commitBoundary (tStepping 1)).map (·.lane.lane) = some .stopped := by decide +kernel

/-- The channel holds checked records at times 1500 and 2500 as F rises to 2000. -/
def tRisen : State :=
  ended tFlight .running
    (withChan { tChan with fetch := 3, fill := 3, heads := [.checked (tRec 5 .analog 7 1500 1), .checked (tRec 5 .analog 8 2500 2)],
                           st := .primed } tBase)

theorem test_meets_CommitBoundary_late : tRisen.lane.f.toNat < 2000 ∧ (∀ n < 16, (tRisen.lane.pend.skew[n]?).join = none) ∧
    ((tRisen.front.chans.flatMap (·.heads)).map Place.pos).Nodup ∧
    (after .commitBoundary tRisen).map (fun t => t.front.chans.map fun c => (c.lateCount, c.heads.map Place.pos, c.cursor)) =
      some [(1, [2], 1)] := by decide +kernel

/-- The same with a pending offset of -600 for the channel's set, and records that it moves out of range, below F, and to 2100. -/
def tRetimed : State :=
  let hs : List Place := [.checked (tRec 5 .analog 7 1500 1), .checked { tRec 5 .analog 7 2500 2 with ts := 100 },
                          .checked (tRec 5 .analog 7 2500 3), .checked (tRec 5 .analog 7 2700 4), .inflight 9 5]
  (ended tFlight .running (withChan { tChan with fetch := 6, fill := 6, st := .primed, heads := hs } tBase)).updLane fun t =>
    { t with pend := { t.pend with skew := t.pend.skew.set 0 (some (BitVec.ofInt 32 (-600))) } }

theorem test_meets_CommitBoundary_skew : (tRetimed.lane.pend.skew[0]?).join = some (BitVec.ofInt 32 (-600)) ∧
    (BitVec.ofInt 32 (-600)).toInt ≠ tRetimed.offsetOf tChan ∧
    ((tRetimed.front.chans.flatMap (·.heads)).map Place.pos).Nodup ∧
    (after .commitBoundary tRetimed).map (fun t => t.front.chans.map fun c => (c.rejected, c.lateCount, c.heads)) =
      some [(1, 2, [.checked { tRec 5 .analog 7 2700 4 with ct := 2100 }, .inflight 9 5])] := by decide +kernel

/-- The pending offset is the one that stands, 0. -/
theorem test_meets_CommitBoundary_skew_same :
    (after .commitBoundary (tRisen.updLane fun t => { t with pend := { t.pend with skew := t.pend.skew.set 0 (some 0) } })).map
      (fun t => t.front.chans.map fun c => (c.rejected, c.lateCount, c.heads.map Place.pos)) = some [(0, 1, [2])] := by decide +kernel

/-- A group with a hit of a HALT watch ends with the stop count at 1; one ends the last step; one ends with a notice waiting. -/
theorem test_meets_CommitBoundary_notices :
    (after .commitBoundary ((ended { tFlight with hits := tHits } .running tHalt).updLane fun t => { t with stopCount := 1 })).map
      (fun t => (t.lane.holds.watch, t.lane.holds.stopCount, t.ntc.produced)) = some (true, true, 3) ∧
    (after .commitBoundary (tStepping 1)).map (fun t => (t.lane.lane, t.ntc.produced)) = some (.stopped, 1) ∧
    (after .commitBoundary ((ended tFlight .running tBase).updNtc fun n => { n with overflow := [tNotice] })).map
      (fun t => (t.lane.holds.noticeFull, t.ntc.overflow.map (·.body))) =
      some (true, [.hold .watch 0, .hold .noticeFull 0]) := by decide +kernel

/-- A stop time of 1999 lies before the next group, at 2000, as a group ends. -/
theorem test_meets_CommitBoundary_stopTime :
    (after .commitBoundary ((ended tFlight .stepping tOffering).updLane fun t => { t with steps := 5, stopTime := some 1999 })).map
      (fun t => (t.lane.holds.stopTime, t.nextTg, t.lane.c, t.ntc.produced)) = some (true, some 2000, 1999, 1) := by decide +kernel

/-- A stop count of 1 alone; nothing that holds the lane, RUNNING and STEPPING; a lane that holds; C below a stop time in FREE running. -/
theorem test_meets_CommitBoundary_lane :
    (after .commitBoundary ((ended tFlight .running tBase).updLane fun t => { t with stopCount := 1 })).map
      (fun t => (t.lane.lane, t.lane.holds.bits, t.lane.resume, t.historyEnded)) = some (.holding, 4, .running, false) ∧
    (after .commitBoundary (ended tFlight .running tBase)).map (fun t => (t.lane.lane, t.lane.holds.bits, t.lane.c)) =
      some (.running, 0, 0) ∧
    (after .commitBoundary ((ended tFlight .holding tBase).updLane fun t =>
        { t with stopCount := 1, holds := { Holds.none with watch := true } })).map (fun t => (t.lane.lane, t.lane.holds.bits)) =
      some (.holding, 5) ∧
    (after .commitBoundary ((ended tFlight .running tOffering).updLane fun t =>
        { t with runMode := .free, stopTime := some 1999 })).map (fun t => (t.lane.lane, t.lane.holds.bits, t.lane.c, t.lane.stopTime)) =
      some (.holding, 2, 1999, none) ∧
    (after .commitBoundary ((ended tFlight .running tOffering).updLane fun t => { t with stopTime := some 1999 })).map
      (fun t => (t.lane.lane, t.lane.c, t.lane.stopTime)) = some (.running, 0, some 1999) := by decide +kernel

theorem test_meets_CommitBoundary_end : (ended tFlight .running tAtEnd).stopWaits = false ∧
    (after .commitBoundary (ended tFlight .running tAtEnd)).map (fun t => (t.lane.lane, t.lane.holds.bits, t.historyEnded, t.ntc.produced)) =
      some (.stopped, 0, true, 1) ∧
    (after .commitBoundary ((ended tFlight .stepping tAtEnd).updLane fun t => { t with steps := 2, stopCount := 1 })).map
      (fun t => (t.lane.lane, t.lane.holds.bits, t.historyEnded, t.ntc.produced)) = some (.stopped, 0, true, 2) := by decide +kernel

/-- A LAGGING channel with pending values that make it an anchor. -/
def tWillAnchor : Chan := { tChan with lagging := true, st := .lagging, pendSet := some (.apply, true) }

theorem test_meets_CommitBoundary_setChannel : tWillAnchor.calc = .lagging ∧
    (after .commitBoundary (ended tFlight .running (withChan tWillAnchor tBase))).map
      (fun t => t.front.chans.map fun c => (c.late, c.anchor, c.lagging)) = some [(.apply, true, false)] ∧
    (after .commitBoundary (ended tFlight .running (withChan tWillAnchor tBase))).map
      (fun t => (t.front.chans.map (·.pendSet), t.ntc.produced)) = some ([none], 1) := by decide +kernel

def erred (o : Origin) (s : State) : State := answered (tRet 8 o .memerr []) s

theorem test_meets_OwnAccessFaults : (erred .commitRead tAnnounced).path.ret Ret.isError = some (tRet 8 .commitRead .memerr []) ∧
    (erred .holdRead tBase).path.ret Ret.isError = some (tRet 8 .holdRead .memerr []) ∧
    (erred .noticeWrite tBase).path.ret Ret.isError = some (tRet 8 .noticeWrite .memerr []) ∧
    (erred (.fetch 3) tBase).path.ret Ret.isError = none ∧ Origin.faultCode .commitRead = some .imageRead ∧
    Origin.faultCode .undoWrite = some .imageWrite ∧ (inLane .faulted tBase).lane.lane = .faulted ∧
    (tBase.updCmd fun c => { c with phase := .capturing 0 1 [] }).capturing = true ∧
    (walking { tWalk with phase := .undoing } tBase).jrn.walk = some { tWalk with phase := .undoing } := by decide

theorem test_meets_RestorationsEnd :
    (flying { tFlight with phase := .restoring } (inLane .faulted tBase)).restoringFlight = true ∧ tBase.restored = true ∧
    (walking { tWalk with phase := .restoring } tBase).walkIn .restoring = some { tWalk with phase := .restoring } ∧
    (inLane .faulted (walking { tWalk with phase := .restoring } tBase)).lane.lane = .faulted := by decide

/-- Point 1 was written twice: the older write kept last-change none, the newer a last-change. -/
def tTwice : List WriteRec :=
  [{ point := 1, oldWord := tWord, newWord := tWord, oldChange := some { time := 5, value := 2, chan := 0 }, oldGood := some 2 },
   { point := 1, oldWord := tWord, newWord := tWord, oldChange := none, oldGood := some 1 }]

def tAborting : State := erred .commitWrite (flying { tFlight with phase := .committing, writes := tTwice } (inLane .running tBase))

theorem test_meets_OwnAccessFaults_directory : tAborting.jrn.walk = none ∧
    (after .ownAccessError tAborting).map (fun t => (t.dirAt 1).map fun e => (e.lastChange, e.lastGood)) =
      some (some (none, some 1)) ∧
    (after .ownAccessError (erred .undoWrite (walking { tWalk with phase := .undoing, writes := tTwice } tBase))).map
      (fun t => (t.dirAt 1).map fun e => (e.lastChange, e.lastGood)) = some (some (none, some 1)) := by decide +kernel

theorem test_meets_RestorationsEnd_notice :
    (after .undoStepRestored (inLane .faulted (walking { tWalk with phase := .restoring } tBase))).map
      (fun t => (t.lane.lane, t.jrn.walk, t.ntc.produced)) = some (.faulted, none, 1) := by decide +kernel

/-! ## Rewind -/

def starting (w : Walk) (head : Pos) (s : State) : State :=
  (s.updCmd fun c => { c with phase := .starting w }).updJrn fun j => { j with head := head }

theorem test_meets_RewindStarts : (starting tWalk 5 tBase).cmd.phase = .starting tWalk ∧ (starting tWalk 5 tBase).jrn.inq = [] ∧
    (starting tWalk 5 tBase).jrn.wrapRead = none ∧ (starting tWalk 5 tBase).jrn.dist 2 ≤ (starting tWalk 5 tBase).jrn.dist 5 ∧
    (starting tWalk 2 tBase).jrn.head = tWalk.endPos ∧ tWalk.stop = false ∧ tBase.lane.lane ≠ .faulted := by decide

/-- The target's position, 2, was overwritten while the start waited: the oldest is 3. -/
def tOvertaken : State := (starting tWalk 5 tBase).updJrn fun j => { j with oldest := 3 }

/-- The result write, and the walk's end position. -/
def tStarted (s : State) : Option (Option ReqKind × Option Pos) :=
  (after .rewindStart s).map fun t => (t.path.ownQ.head?.map (·.kind), t.jrn.walk.map (·.endPos))

/-- A REWIND is answered with its target's position, 2, and a STEP_BACK with the end position, 3 (R189). -/
theorem test_meets_RewindStarts_overtaken : tOvertaken.jrn.dist tOvertaken.jrn.head < tOvertaken.jrn.dist tWalk.endPos ∧
    tStarted tOvertaken = some (some (.write (resultLine 2 [1, 0, 0, 0, 2, 0, 0, 0]) resultMask), some 3) ∧
    tStarted (inPhase (.starting { tWalk with back := true, targetC := none }) tOvertaken) =
      some (some (.write (resultLine 2 [1, 0, 0, 0, 3, 0, 0, 0]) resultMask), some 3) := by decide +kernel

/-- A REWIND to a mark at the head, with a head record, a pending offset 1500 for set 1 and two marks at the head. -/
def tAtHead : State :=
  ((starting tWalk 2 (withChan { tPrimed with fill := 3, cursor := 1 } tBase)).updJrn fun j => { j with marks := [tMark, tMark] }).updLane
    fun t => { t with pend := { t.pend with skew := t.pend.skew.set 1 (some 1500) } }

theorem test_meets_RewindStarts_atHead :
    (after .rewindStart tAtHead).map (fun t => (t.lane.lane, t.lane.c, t.jrn.marks.length)) = some (.stopped, 50, 1) ∧
    (after .rewindStart tAtHead).map (fun t => (t.front.offsets[1]?, t.ntc.produced)) = some (some 1500, 1) ∧
    (after .rewindStart tAtHead).map (fun t => t.front.chans.map fun c => (c.heads, c.fetch, c.st)) =
      some [([], 1, .fetching)] := by decide +kernel

/-- R stands at 60, and the target's C at 50. -/
def tAbove (s : State) : State := s.updLane fun t => { t with c := 70, r := 60 }

/-- C is not below R at the end of a rewind whose target was overtaken (R90), and is the target's C, 50, where R stands at 40. -/
theorem test_meets_RewindStarts_endsAt : (after .rewindStart (tAbove tAtHead)).map (·.lane.c) = some 60 ∧
    (after .rewindStart ((tAbove tAtHead).updLane fun t => { t with r := 40 })).map (·.lane.c) = some 50 := by decide +kernel

theorem test_meets_UndoStepBeginsAndEnds : (walking tWalk tBase).walkIn .announced = some tWalk ∧
    (walking tWalk tBase).path.windowReadsOut = false ∧ (walking tWalk tBase).waiterReady = false ∧
    (walking { tWalk with phase := .stepDone } tBase).walkIn .stepDone = some { tWalk with phase := .stepDone } ∧
    (walking { tWalk with phase := .stepDone } tBase).path.busy Origin.isUndo = false ∧
    (walking tWalk tBase).jrn.head ≠ tWalk.endPos ∧ (walking { tWalk with endPos := 5 } tBase).jrn.head = 5 ∧
    (walking tWalk tBase).unconfigureWaits = false ∧
    (tBase.updCmd fun c => { c with phase := .waiting .unconfigure }).unconfigureWaits = true := by decide

/-- A rewind at its end, its last step a group's, with a pending offset 1500 for set 1. -/
def tRewound : State :=
  (walking { tWalk with phase := .stepDone, endPos := 5, groupStep := true, removed := 1 } tBase).updLane fun t =>
    { t with pend := { t.pend with skew := t.pend.skew.set 1 (some 1500) } }

theorem test_meets_UndoStepBeginsAndEnds_over : tRewound.jrn.head = 5 ∧ tRewound.path.busy Origin.isUndo = false ∧
    (after .undoStepBoundary tRewound).map (fun t => (t.lane.lane, t.front.offsets[1]?, t.ntc.produced)) =
      some (.stopped, some 1500, 1) ∧
    (after .undoStepBoundary tRewound).map (fun t => t.front.chans.map fun c => (c.lagging, c.expSeq, c.lastTs)) =
      some [(false, none, none)] ∧
    (after .undoStepBoundary tRewound).map (fun t => t.front.chans.map (·.lastCt)) = some [none] ∧
    (after .undoStepBoundary (tAbove tRewound)).map (·.lane.c) = some 60 := by decide +kernel

theorem test_meets_UndoStepBeginsAndEnds_pending :
    (after .undoStepBoundary ((walking { tWalk with phase := .stepDone } (withChan tWillAnchor tBase)).updLane fun t =>
        { t with pend := { t.pend with stopTime := some (some 9) } })).map
      (fun t => (t.lane.lane, t.lane.stopTime, t.front.chans.map (·.anchor))) = some (.rewinding, some 9, [true]) := by
  decide +kernel

/-- The entry the step waits for has been read. -/
def undoing (w : Walk) (e : JEntry) (s : State) : State :=
  answered (tRet 8 .entryRead .ok e.encode) (walking { w with phase := .undoing, reading := some 8 } s)

def tApplied (rel : Bool) : JEntry := .applied 0 1 1 false false rel none none tWord 300

theorem test_meets_WordlessEntryUndone :
    (undoing tWalk (.skew 3 5 6) tBase).walkIn .undoing = some { tWalk with phase := .undoing, reading := some 8 } ∧
    ((undoing tWalk (.skew 3 5 6) tBase).path.ret (Ret.isFor 8)).map (·.data) = some (JEntry.skew 3 5 6).encode ∧
    JEntry.decode (JEntry.skew 3 5 6).encode = some (.skew 3 5 6) ∧
    JEntry.decode (JEntry.groupEnd 3 .timed 9 8 7 1).encode = some (.groupEnd 3 .timed 9 8 7 1) ∧
    JEntry.decode (JEntry.held 0 1 1 2 0 9).encode = some (.held 0 1 1 2 0 9) ∧
    JEntry.decode (JEntry.superseded 0 1 1 tHeld).encode = some (.superseded 0 1 1 tHeld) ∧
    JEntry.decode (JEntry.rejected 0 1 1 .order).encode = some (.rejected 0 1 1 .order) ∧
    JEntry.decode (tApplied true).encode = some (tApplied true) ∧ writtenWord tWalk.writes 1 = none := by decide +kernel

theorem test_meets_WordlessEntryUndone_fault : (undoing tWalk (.skew 3 5 6) tBase).faultComes = false ∧
    ((undoing tWalk (.skew 3 5 6) tBase).updPath fun p => { p with returns := tRet 7 .undoWrite .memerr [] :: p.returns }).faultComes = true := by
  decide

theorem test_meets_WordEntryUndone : (tBase.dirAt 1).isSome = true ∧ (tApplied false).isRelease = false ∧
    (undoing { tWalk with cur := some (tApplied true) } (tApplied true) tBase).walkIn .undoing =
      some { tWalk with phase := .undoing, reading := some 8, cur := some (tApplied true) } ∧
    ((tChanged 5).dirAt 1).bind (·.lastChange) = some { time := 5, value := 2, chan := 7 } ∧
    writtenWord [{ point := 1, oldWord := tWord, newWord := tWord, oldChange := none, oldGood := none }] 1 = some tWord ∧
    findDwell tBase.merge.dwell 1 = none := by decide

/-! ## Configuration -/

/-- A configuration record's two lines: 6 points, 4 of them STATUS, CLEAR or KEEP, no channel enabled, W 500, Q 1000. -/
def tLine0 (mode : Nat) : List Byte :=
  leBytes 8 0x10000 ++ leBytes 8 0x20000 ++ leBytes 2 6 ++ leBytes 2 4 ++ leBytes 1 12 ++ leBytes 1 6 ++ leBytes 1 mode ++
    leBytes 1 1 ++ leBytes 8 0x40000 ++ leBytes 8 0x80000 ++ leBytes 8 0 ++ leBytes 2 1000 ++ leBytes 2 500 ++ leBytes 2 5 ++
    leBytes 1 15 ++ leBytes 1 1 ++ leBytes 8 0

def tRead (mode : Nat) : List (Nat × Option (List Byte)) := [(0, some (tLine0 mode)), (1, some (leBytes 64 0))]

def tCfg (mode : Nat) : Cfg := { record := CfgRec.parse (tLine0 mode ++ leBytes 64 0), ents := [] }

theorem test_meets_ValidatedConfiguration : State.reset.validate (tRead 2) [] = .inr (tCfg 2) := by decide +kernel

/-- The first failing check of a configuration whose quantum is 0, of one whose journal meets the alias window, and of one whose line 0
could not be read. -/
theorem test_meets_ValidatedConfiguration_failures :
    State.reset.validate [(0, none), (1, some (leBytes 64 0))] [] = .inl { index := 1, chan := 0xFF, cause := 5, region := 0 } ∧
    firstFailure ({ (tCfg 2).record with quantum := 0 } : CfgRec).checkFields = some { index := 12, chan := 0xFF, cause := 1, region := 0 } ∧
    firstFailure (checkSpans [State.reset.cbSpan] (({ (tCfg 2).record with jBase := 0x20000 } : CfgRec).spans [])) =
      some { index := 9, chan := 0xFF, cause := 4, region := 2 } ∧
    firstFailure ({ (tCfg 2).record with skews := [0, 0x80000000] } : CfgRec).checkSkews =
      some { index := 19, chan := 0xFF, cause := 1, region := 0 } ∧
    firstFailure (({ base := 0x30000, k := 4, start := 0, skewSet := 16, late := 1, anchor := false, closed := false, fill := 0 } :
      ChanEnt).check 3) = some { index := 3, chan := 3, cause := 1, region := 0 } := by decide +kernel

theorem test_meets_ConfigureValidates : meets 1 [] State.reset = true ∧ State.reset.inFlight = false ∧ tAnnounced.inFlight = true ∧
    meets 1 [] tAnnounced = true ∧ (tRead 3).length = 2 ∧
    State.reset.validate (tRead 3) [] = .inl { index := 7, chan := 0xFF, cause := 1, region := 0 } := by decide +kernel

def mapChanging (mode : Nat) : State := State.reset.updCmd fun c => { c with phase := .mapChange (tCfg mode) }

theorem test_meets_MapChanges : (mapChanging 1).path.fwd = [] ∧ (mapChanging 1).path.held = [] ∧
    (mapChanging 1).path.windowReadIds = [] ∧ (tCfg 1).record.points = 6 ∧ (tCfg 1).record.imageMode = 1 ∧
    (tCfg 2).record.imageMode = 2 := by decide +kernel

/-- The CONFIGURING pass has an answer for point `n`. -/
def passing (n : Nat) (o : Origin) (w : PointWord) : State :=
  answered (tRet 8 o .ok w.toBytes) ((inLane .configuring tBase).setImg (some { point := n, mode := .keep, cleaning := false }))

theorem test_meets_ImagePass : (passing 0 .imgRead tWord).path.ret Ret.isPass = some (tRet 8 .imgRead .ok tWord.toBytes) ∧
    tWord.quality &&& 0xC0 = 0 ∧ (0x41 : BitVec 8) &&& 0xC0 ≠ 0 ∧
    (passing 5 .imgWrite tWord).path.ret Ret.isPass = some (tRet 8 .imgWrite .ok tWord.toBytes) ∧
    (passing 5 .imgRead tWord).points = 6 ∧ ((passing 5 .imgRead tWord).dirAt 5).isSome = true := by decide

/-- The pass of a CLEAR image writes the next point's word. -/
theorem test_meets_ImagePass_clear :
    (after .imagePassWord ((passing 3 .imgWrite tWord).setImg (some { point := 3, mode := .clear, cleaning := false }))).map
      (fun t => (t.img.map (·.point), t.path.ownQ.map fun q => (q.addr, q.kind))) =
      some (some 4, [(0x10020, .write (clearWord .analog).toBytes (fullMask 8))]) := by decide +kernel

def draining : State := tBase.updCmd fun c => { c with phase := .draining, pend := [0] }

theorem test_meets_UnconfigureTakesEffect : meets 2 [] State.reset = true ∧ meets 2 [] (inLane .configuring tBase) = true ∧
    meets 2 [] tBase = true ∧ meets 2 [] tAnnounced = true ∧ tAnnounced.commit.fly.isSome = true ∧
    tBase.stepInFlight = false ∧ draining.draining = true ∧ draining.drained = true ∧ draining.cmd.n ∈ draining.cmd.pend := by
  decide +kernel

theorem test_meets_UnconfigureTakesEffect_answers : (draining.path.answers.any fun a => a.win || a.resp.isSome) = false ∧
    (draining.updPath fun p => { p with answers := tReady.path.answers }).drained = false := by decide

/-! ## Commands -/

def inRun : State := inLane .running tBase

/-- The result is owed, and the owner word behind it (R178). -/
theorem test_answer_owes_both : (after .setPace (asked 6 [0, 4] tBase)).map
    (fun t => ((t.path.own.map fun q => (q.origin, q.addr)).take 2, (t.path.own.drop 1).head?.map (·.kind))) =
    some ([(.resultWrite, 0x800), (.ownerWrite, 0x800)],
      some (.write (leBytes 8 0) [true, true, true, true, false, false, false, false])) := by decide +kernel

def held1 : State := (inLane .holding tBase).updLane fun t => { t with holds := { t.holds with noticeFull := true } }

theorem test_meets_RunAndStep : meets 3 [1] tBase = true ∧ meets 3 [1] held1 = true ∧ meets 4 [2, 0] tBase = true ∧
    meets 4 [2, 0] inRun = true ∧ RunMode.ofCode (field (tDesc 3 [1]) 8 1) = some .paced ∧
    RunMode.ofCode (field (tDesc 3 [3]) 8 1) = none ∧ field (tDesc 4 [2, 0]) 8 2 = 2 ∧ tBase.historyEnded = false ∧
    (withChan { tChan with closed := true } tBase).historyEnded = true ∧ 48 ≤ (fullBuffer tBase).ntc.overflow.length ∧
    (tBase.front.chans.all fun c => !c.lagging) = true := by decide +kernel

/-- HOLDING at the end of history. -/
def tEnded (h : Holds) : State := withChan { tChan with closed := true, st := .drained } (holdingOn h tBase)

theorem test_meets_RunAndStep_ended : (tEnded { Holds.none with noticeFull := true }).historyEnded = true ∧
    meets 3 [1] (tEnded { Holds.none with noticeFull := true }) = true ∧
    (after .run (asked 3 [1] (tEnded { Holds.none with noticeFull := true }))).map (fun t => (t.lane.lane, t.lane.holds)) =
      some (.stopped, Holds.none) ∧
    (after .step (asked 4 [2, 0] (tEnded tStarved))).map (fun t => (t.lane.lane, t.lane.holds)) = some (.stopped, Holds.none) ∧
    (after .run (asked 3 [1] (inLane .running (withChan { tChan with closed := true, st := .drained } tBase)))).map (·.lane.lane) =
      some .stopped := by decide +kernel

theorem test_meets_RunAndStep_anchor : (∀ c ∈ tAnchored.front.chans, c.calc = c.st) ∧ tAnchored.historyEnded = false ∧
    meets 3 [1] tAnchored = true ∧ meets 4 [2, 0] (holdingOn tStarved tBase) = true ∧
    (after .run (asked 3 [1] tAnchored)).map (fun t => (t.lane.lane, t.lane.resume)) = some (.holding, .running) ∧
    (after .step (asked 4 [2, 0] (holdingOn tStarved tBase))).map (fun t => (t.lane.lane, t.lane.steps)) = some (.stepping, 2) ∧
    (after .run (asked 3 [1] (tBase.updNtc fun n => { n with overflow := [tNotice] }))).map (·.lane.lane) = some .holding := by
  decide +kernel

theorem test_meets_StopTaken : meets 5 [] (walking tWalk tBase) = true ∧ meets 5 [] tBase = true ∧ meets 5 [] inRun = true ∧
    meets 5 [] tFormed = true ∧ inRun.commit.fly = none ∧ tFormed.commit.fly.isSome = true := by decide +kernel

theorem test_meets_SettingsTaken : meets 6 (leBytes 4 16) tBase = true ∧ field (tDesc 6 (leBytes 4 16)) 8 4 = 16 ∧
    field (tDesc 6 (leBytes 4 65536)) 8 4 = 65536 ∧ field (tDesc 6 (leBytes 4 15)) 8 4 = 15 ∧ meets 6 (leBytes 4 16) tFormed = true ∧
    tFormed.inFlight = true ∧ tBase.inFlight = false ∧ meets 7 (leBytes 8 1 ++ leBytes 8 9000) tBase = true ∧
    field (tDesc 7 (leBytes 8 1 ++ leBytes 8 9000)) 16 8 = 9000 ∧ field (tDesc 7 (leBytes 8 1 ++ leBytes 8 9000)) 8 1 % 2 = 1 ∧
    field (tDesc 7 (leBytes 8 1 ++ leBytes 8 (2 ^ 48))) 16 8 = 2 ^ 48 ∧ meets 8 (leBytes 4 3 ++ leBytes 4 4) tBase = true ∧
    meets 9 (leBytes 4 15 ++ leBytes 4 7) tBase = true ∧ field (tDesc 9 (leBytes 4 15 ++ leBytes 4 7)) 8 1 = 15 ∧
    field (tDesc 9 (leBytes 4 16 ++ leBytes 4 7)) 8 1 = 16 ∧ tBase.front.offsets.length = 16 ∧ tBase.lane.pend.skew.length = 16 ∧
    tBase.commit.watches.length = 32 ∧ tBase.ntc.status.length = 20 := by decide +kernel

/-- SET_STOP_TIME 1999 of a lane whose next group is at 2000. -/
def tStopSet (l : LaneState) (m : RunMode) : Option (LaneState × Option Time × Time) :=
  (after .setStopTime (asked 7 (leBytes 8 1 ++ leBytes 8 1999) ((inLane l tOffering).updLane fun t => { t with runMode := m }))).map
    fun t => (t.lane.lane, t.lane.stopTime, t.lane.c)

theorem test_meets_SettingsTaken_stopTime : tOffering.nextTg = some 2000 ∧ (tOffering.front.chans.all fun c => c.calc == c.st) = true ∧
    tOffering.historyEnded = false ∧ tOffering.stager.late = [] ∧ tStopSet .stepping .free = some (.holding, none, 1999) ∧
    tStopSet .running .paced = some (.running, some 1999, 0) ∧ tStopSet .running .free = some (.holding, none, 1999) ∧
    tStopSet .stopped .free = some (.stopped, some 1999, 0) ∧ tStopSet .rewinding .free = some (.rewinding, some 1999, 0) ∧
    (after .setStopTime (asked 7 (leBytes 8 1 ++ leBytes 8 7) held1)).map (fun t => (t.lane.lane, t.lane.stopTime)) =
      some (.holding, some 7) := by decide +kernel

theorem test_meets_ChannelSettingTaken : meets 10 [3, 2, 1] tBase = true ∧ field (tDesc 10 [3, 2, 1]) 8 1 = 3 ∧
    tBase.logical 3 = some 0 ∧ LatePolicy.ofCode (field (tDesc 10 [3, 2, 1]) 9 1) = some .apply ∧
    LatePolicy.ofCode (field (tDesc 10 [3, 3, 1]) 9 1) = none ∧ tBase.logical 4 = none ∧ tBase.chanAt 0 = some tChan ∧
    field (tDesc 10 [64, 2, 1]) 8 1 = 64 := by decide +kernel

def marked (n : Nat) (s : State) : State := s.updJrn fun j => { j with marks := List.replicate n tMark, head := 2 }

theorem test_meets_MarkPushed : meets 11 [] (marked 7 tBase) = true ∧ (marked 7 tBase).jrn.marks.length = 7 ∧
    (marked 8 tBase).jrn.marks = tMark :: List.replicate 7 tMark ∧ meets 11 [] (fullBuffer (marked 8 tBase)) = true ∧
    meets 11 [] tFormed = true := by decide +kernel

theorem test_meets_MarkDropped : meets 12 [] (marked 1 tBase) = true ∧ meets 12 [] (walking tWalk tBase) = true ∧
    (asked 12 [] State.reset).command 12 = some (tDesc 12 []) ∧ (marked 1 tBase).jrn.marks ≠ [] ∧ tBase.jrn.marks = [] := by
  decide +kernel

def grouped (s : State) : State := s.updJrn fun j => { j with head := 9, geCount := 2, geps := [3, 8] }

theorem test_meets_RewindTaken : meets 13 [1] (marked 2 tBase) = true ∧ field (tDesc 13 [1]) 8 1 = 1 ∧
    (marked 2 tBase).jrn.marks[2 - 1]? = some tMark ∧ meets 14 [1, 0] (grouped tBase) = true ∧
    (grouped tBase).jrn.completeGroups = 2 ∧ (grouped tBase).jrn.geps[2 - 1 - 1]? = some 3 ∧
    (grouped tBase).jrn.geps.length ≤ 2 := by decide +kernel

/-- WATCH_SET of slot 31 on point 5. -/
def tWatch (cond action operand : Byte) : List Byte := [31, 0, 5, 0, cond, action, 0, 0, operand]

theorem test_meets_WatchSlots : meets 15 (tWatch 1 1 0) tBase = true ∧ meets 15 (tWatch 1 1 0) tFormed = true ∧
    watchParams 6 (tDesc 15 (tWatch 3 2 4)) = .inr (31, { point := 5, cond := .qualitySet 4, halt := true }) ∧
    watchParams 6 (tDesc 15 (tWatch 3 2 5)) = .inl 5 ∧ watchParams 5 (tDesc 15 (tWatch 1 1 0)) = .inl 2 ∧
    watchParams 6 (tDesc 15 (tWatch 4 1 0)) = .inl 3 ∧ watchParams 6 (tDesc 15 (tWatch 1 3 0)) = .inl 4 ∧
    watchParams 6 (tDesc 15 [32, 0, 5, 0, 1, 1]) = .inl 1 ∧ meets 16 [31] tBase = true ∧ field (tDesc 16 [31]) 8 1 = 31 ∧
    field (tDesc 16 [32]) 8 1 = 32 := by decide +kernel

theorem test_one_flag : oneFlag 0x80 = true ∧ oneFlag 0 = false ∧ oneFlag 3 = false := by decide

theorem test_meets_PointQueried : meets 21 [5, 0] tBase = true ∧ field (tDesc 21 [5, 0]) 8 2 = 5 ∧ tBase.dirAt 5 = some (tEntry .analog) ∧
    tBase.commit.flag = false ∧ (tBase.updCommit fun c => { c with flag := true }).commit.flag = true ∧
    field (tDesc 21 [6, 0]) 8 2 = 6 := by decide +kernel

theorem test_meets_PresentationSet : meets 17 [2, 0, 3, 0, 4] tBase = true ∧ field (tDesc 17 [2, 0, 3, 0, 4]) 8 2 = 2 ∧
    field (tDesc 17 [2, 0, 3, 0, 4]) 10 2 = 3 ∧ selectorOf (field (tDesc 17 [2, 0, 3, 0, 4]) 12 1) = some .blank ∧
    selectorOf 5 = none ∧ rangeLines tRegions 2 3 = [0x10000] ∧
    ((answered (tRet 8 .holdRead .ok (leBytes 64 1)) (tBase.updCmd fun c => { c with phase := .capturing 2 3 [] })).captured
      tRegions 2 3 []) = true := by decide +kernel

theorem test_meets_RangeSettingsTaken : meets 18 [0, 0, 4, 0, 3] tBase = true ∧ tBase.statusPoints = 4 ∧
    field (tDesc 18 [0, 0, 4, 0, 3]) 10 2 = 4 ∧ field (tDesc 18 [0, 0, 4, 0, 3]) 12 1 = 3 ∧ meets 19 [0, 0, 6, 0, 2] tBase = true ∧
    field (tDesc 19 [0, 0, 6, 0, 2]) 12 1 = 2 := by decide +kernel

theorem test_meets_OverridesReleased : meets 20 [1, 0, 1, 0] (tBase.setOvr [tOvr]) = true ∧
    field (tDesc 20 [1, 0, 1, 0]) 8 2 = 1 ∧ field (tDesc 20 [1, 0, 1, 0]) 10 2 = 1 ∧
    (asked 20 [1, 0, 1, 0] (inLane .faulted tBase)).command 20 = some (tDesc 20 [1, 0, 1, 0]) := by decide +kernel

def waiting (w : WaitCmd) (s : State) : State := s.updCmd fun c => { c with phase := .waiting w }

theorem test_meets_WaitsEnd : (waiting .stop inRun).waitOver .stop = true ∧ tBase.waitOver .mark = true ∧
    tBase.waitOver .configure = true ∧ tBase.waitOver .unconfigure = true ∧ tBase.waitOver (.query 1) = true ∧
    tBase.waitOver (.hold 0 1) = true ∧ tBase.waitOver (.watchClear 1) = true ∧ tFormed.waitOver .stop = false := by decide

theorem test_meets_WaitsEnd_eighth : (waiting .mark (marked 8 tBase)).waitOver .mark = true ∧
    (marked 8 tBase).jrn.marks = tMark :: List.replicate 7 tMark ∧
    (after .commandWaitEnd (waiting .mark (marked 8 tBase))).map (fun t => (t.jrn.marks.length, t.ntc.produced)) = some (8, 1) := by
  decide +kernel

theorem test_meets_CommandsRejected : (asked 30 [] tBase).cmd.phase = .fetched (some (tDesc 30 [])) ∧
    onesSum (descBlock (tDesc 30 [])) = 65535 ∧ descCode (tDesc 30 []) = 30 ∧ onesSum (descBlock (leBytes 64 0)) ≠ 65535 ∧
    (asked 13 [1] inRun).command 13 = some (tDesc 13 [1]) ∧ taken 13 inRun.lane.lane = false := by decide +kernel

/-! ## Laws of the state -/

theorem test_meets_EncodingsRoundTrip : (JEntry.held 0 1 1 3 3 9).wf = true ∧ (JEntry.held 0 1 1 4 0 9).wf = false ∧
    tWord.toBytes.length = 8 := by decide

theorem test_meets_EncodingsRoundTrip_layout :
    (JEntry.groupEnd 0x01020304 .late 5 6 7 8).encode =
      [10, 3, 255, 0, 4, 3, 2, 1, 8, 0, 5, 0, 0, 0, 0, 0, 6, 0, 0, 0, 0, 0, 7, 0, 0, 0, 0, 0, 0, 0, 0, 0] ∧
    (JEntry.held 2 9 1 3 2 5).encode = [3, 0, 2, 0, 9, 0, 0, 0, 1, 0, 5, 0, 0, 0, 0, 0, 11, 0, 0, 0, 0, 0, 0, 0, 0, 0, 0, 0, 0, 0, 0, 0] ∧
    (JEntry.layout (.held 2 9 1 3 2 5)).length = 8 := by decide

theorem test_meets_EncodingsRoundTrip_status : tBase.markDue.rewriteOwed = true ∧ tBase.markDue.ntc.status.length = 20 ∧
    tBase.safe = some 10 ∧ tBase.lane.pace < 2 ^ 32 ∧ field (tBase.statusLine .stopped 0) 0 1 = 2 ∧
    field (tBase.statusLine .stopped 0) 32 8 = 10 ∧ field (tBase.statusLine .stopped (4 + 3 / 4)) (16 * 3 + 8) 4 = 0 ∧
    (closeEvent tBase.markDue).path.ownQ.length = 20 := by decide +kernel

theorem test_meets_laws : State.reset.overridesOk ∧ State.reset.dwellOk ∧ State.reset.overflowOk ∧ State.reset.marksOk ∧
    State.reset.path.ok ∧ State.reset.lane.holdsOk ∧ State.reset.rewriteOwed = false := by
  unfold State.overridesOk State.dwellOk State.overflowOk State.marksOk Path.ok Timeline.holdsOk
  decide

/-- A walk in REWINDING, a group in a lane that runs, a STOP that waits, and a rewind that is to start. -/
theorem test_meets_StateLawsKept_flights : (inLane .rewinding (walking tWalk tBase)).jrn.walk ≠ none ∧
    (inLane .rewinding (walking tWalk tBase)).flightsOk ∧ (flying tFlight (inLane .running tBase)).flightsOk ∧
    ((flying tFlight (inLane .stepping tBase)).updCmd fun c => { c with phase := .waiting .stop }).flightsOk ∧
    ¬ (inLane .running (walking tWalk tBase)).flightsOk := by
  unfold State.flightsOk
  refine ⟨by decide, ⟨by decide, by decide, by decide, by decide, ?_⟩, ⟨by decide, by decide, by decide, by decide, ?_⟩,
    ⟨by decide, by decide, by decide, by decide, ?_⟩, fun h => absurd (h.1 (by decide)).1 (by decide)⟩
  all_goals (intro w h; cases h)

/-- A group of time 60 in flight with C at 70, a step in flight that began with R 60 and C 70, and a group beyond C. -/
theorem test_meets_StateLawsKept_clock : (tAbove (flying { tFlight with tg := 60 } (inLane .running tBase))).clockOk ∧
    (tAbove (flying { tFlight with tg := 60 } (inLane .running tBase))).flightsOk ∧
    (tAbove (walking { tWalk with phase := .undoing, snap := { r := 60, f := 60, c := 70, group := 0 } } tBase)).clockOk ∧
    ¬ (tAbove (flying { tFlight with tg := 71 } (inLane .running tBase))).clockOk := by
  unfold State.clockOk State.flightsOk
  refine ⟨⟨by decide, ?_, ?_⟩, ⟨by decide, by decide, by decide, by decide, ?_⟩, ⟨by decide, ?_, ?_⟩,
    fun h => absurd (h.2.1 _ rfl) (by decide)⟩
  all_goals (intro w h; cases h)
  · decide
  · decide

theorem test_meets_StateLawsKept_start : (willRewind tWalk tBase).flightsOk :=
  ⟨by decide, by decide, by decide, by decide, fun _ _ => by decide⟩

theorem test_meets_places : (staged (List.replicate 512 tMarkerItem) tBase).stager.cur.length = 512 ∧
    (staged (List.replicate 512 tMarkerItem) tBase).stagerRoom = false ∧ Config.stagerPlaces = 512 ∧ Config.headPlaces = 4 ∧
    ({ tChan with heads := List.replicate 4 (.inflight 0 0) } : Chan).heads.length = 4 := by decide +kernel

theorem test_meets_a_step : step State.reset = .next (tick State.reset) := rfl

/-! ## Single steps -/

theorem test_run : (after .run (asked 3 [1] tBase)).map (fun t => (t.lane.lane, t.cmd.n)) = some (.running, 1) := by decide +kernel
theorem test_step : (after .step (asked 4 [2, 0] tBase)).map (fun t => (t.lane.lane, t.lane.steps)) = some (.stepping, 2) := by
  decide +kernel
theorem test_stop : (after .stop (asked 5 [] inRun)).map (·.lane.lane) = some .stopped := by decide +kernel
theorem test_set_pace : (after .setPace (asked 6 (leBytes 4 2048) tBase)).map (·.lane.pace) = some 2048 := by decide +kernel
theorem test_mark : (after .mark (asked 11 [] tBase)).map (·.jrn.marks.length) = some 1 := by decide +kernel
theorem test_stop_waits : (after .stop (asked 5 [] tFormed)).map (·.cmd.phase) = some (.waiting .stop) := by decide +kernel
theorem test_admit : (after .groupAdmit (tOffering.updLane fun t => { t with runMode := .free })).map
    (fun t => (t.commit.fly.map (·.tg), t.lane.c)) = some (some 2000, 2000) := by decide +kernel
theorem test_pace : (after .paceAdvance (tPaced 2048)).map (fun t => (t.lane.c, t.lane.acc)) = some (2, 0) := by decide +kernel
theorem test_starvation : (after .starvationExpiry (tStarving.updMerge fun m => { m with starve := 5 })).map
    (fun t => t.front.chans.map (·.st)) = some [.primed, .lagging] := by decide +kernel
theorem test_pull : (after .formationPull (forming tAnalog tBase)).map (fun t => t.stager.cur.map (·.time)) = some [1200] := by
  decide +kernel
theorem test_hold_change : (after .formationPull (forming (tStatus 2) (filtering tBase))).map
    (fun t => t.merge.dwell.map (·.release)) = some [3200] := by decide +kernel
theorem test_commit_item : (after .commitItem (committing tRecordItem tBase)).map
    (fun t => (t.path.ownQ.head?.map (·.kind), (t.dirAt 1).bind (·.lastGood))) =
    some (some (.write [2, 0, 0, 0, 0, 5, 0, 0] (List.replicate 8 true)), some 2) := by decide +kernel
theorem test_boundary : (after .commitBoundary (ended tFlight .running tBase)).map (fun t => (t.lane.r, t.lane.f, t.lane.group)) =
    some (1000, 2000, 1) := by decide +kernel
theorem test_halt : (after .commitBoundary (ended { tFlight with hits := tHits } .running tHalt)).map (·.lane.lane) =
    some .holding := by decide +kernel
theorem test_fault : (after .ownAccessError (erred .commitRead tAnnounced)).map (fun t => (t.lane.lane, t.lane.fault)) =
    some (.faulted, .imageRead) := by decide +kernel
theorem test_window_write : (after (.windowWrite tClaim) tBase).map (fun t => t.ovr.map (·.value)) = some [3] := by decide +kernel
theorem test_fill_write : (after .fillCountWrite (atHead (tFillWrite 5 0) .snooped tBase)).map
    (fun t => t.front.chans.map (fun c => (c.fill, c.st))) = some [(5, .fetching)] := by decide +kernel
theorem test_owner_write : (after .ownerWordWrite (atHead (tOwner 0 1) .snooped tBase)).map (·.cmd.phase) = some .reading := by
  decide +kernel
theorem test_record_load : (after (.recordLoad 3) (fetched tChan .ok (tRecord 20 1 1 1 7) tBase)).map
    (fun t => t.front.chans.map (fun c => (c.st, c.expSeq))) = some [(.primed, some 8)] := by decide +kernel
/-- The last record of a closed LAGGING channel, an ALIVE: CHANNEL_DRAINED is posted and CHANNEL_REJOINED is not (R47). -/
theorem test_alive_drains : (after (.recordLoad 3) (fetched { tChan with closed := true, lagging := true, st := .lagging } .ok
    (tRecord 20 0 4 0 7) tBase)).map (fun t => (t.ntc.produced, t.front.chans.map (·.st))) = some (1, [.drained]) := by decide +kernel
/-- A DRAINED channel that held nothing stays DRAINED as a rewind begins (R46, R48). -/
theorem test_rewind_start_drained : (after .rewindStart (starting tWalk 5 (withChan
    { tChan with closed := true, st := .drained, cursor := 1 } tBase))).map (fun t => t.front.chans.map (fun c => (c.st, c.fetch))) =
    some [(.drained, 1)] := by decide +kernel
theorem test_undo_group : (after .undoEntry (undoing tWalk (.groupEnd 3 .timed 9 8 7 1) tBase)).map
    (fun t => (t.lane.r, t.lane.f, t.lane.c, t.lane.group, t.jrn.head)) = some (8, 7, 8, 3, 4) := by decide +kernel
theorem test_rewind_start : (after .rewindStart (starting tWalk 5 tBase)).map (·.lane.lane) = some .rewinding := by decide +kernel
theorem test_map_change : (after .regionMapChange (mapChanging 2)).map (fun t => (t.lane.lane, t.dir.length)) =
    some (.configuring, 6) := by decide +kernel
theorem test_pass_ends : (after .imagePassWord (passing 5 .imgWrite tWord)).map (fun t => (t.lane.lane, t.img)) =
    some (.stopped, none) := by decide +kernel
theorem test_unconfigured : (after .unconfigureEffect draining).map (fun t => (t.lane.lane, t.regions, t.cmd.phase)) =
    some (.unconfigured, none, .reading) := by decide +kernel

end Sys2Proof.Tests
end

