-- ==== Sys2Proof/Proofs/BlockingChannels.lean ====
section
/-! PROOFS. The blocking channels and the blocked lane (R73). -/

namespace Sys2Proof.Machine

/-! ## The safe time bounds the next group (R51, R55) -/

/-- The fold of R51 ends at or below any bound that its start or a channel on the way meets. -/
theorem foldl_minOpt_le (b : Int) : ∀ (l : List Chan) (a : Option Int),
    (∃ x, a = some x ∧ x ≤ b) ∨ (∃ c ∈ l, c.known ≤ b) →
    ∃ x, l.foldl (fun a c => minOpt a c.known) a = some x ∧ x ≤ b := by
  intro l
  induction l with
  | nil =>
    rintro a (h | ⟨_, hm, _⟩)
    · exact h
    · cases hm
  | cons d l ih =>
    rintro a (⟨x, rfl, hx⟩ | ⟨c, hm, hc⟩)
    · refine ih _ (.inl ⟨_, rfl, ?_⟩)
      split <;> omega
    · rcases List.mem_cons.1 hm with rfl | hm
      · refine ih _ (.inl ?_)
        cases a with
        | none => exact ⟨_, rfl, hc⟩
        | some x => exact ⟨_, rfl, by split <;> omega⟩
      · exact ih _ (.inr ⟨c, hm, hc⟩)

theorem safe_le_known {s : State} {c : Chan} (hm : c ∈ s.front.chans) (hc : c.counts = true) :
    ∃ x, s.safe = some x ∧ x ≤ c.known :=
  foldl_minOpt_le c.known _ none (.inr ⟨c, List.mem_filter.2 ⟨hm, hc⟩, Int.le_refl _⟩)

theorem safeFrom_eq_false {s : State} {c : Chan} {t : Nat} (hm : c ∈ s.front.chans) (hc : c.counts = true)
    (hk : c.known < (t : Int)) : s.safeFrom t = false := by
  obtain ⟨x, hs, hx⟩ := safe_le_known hm hc
  have hlt : x < (t : Int) := by omega
  simpa [State.safeFrom, hs] using hlt

theorem formable_of_nextTg_none {s : State} (h : s.nextTg = none) : s.formable = false := by
  simp [State.formable, h]

theorem formable_of_nextTg_some {s : State} {tg : Nat} (h : s.nextTg = some tg) :
    s.formable = s.safeFrom (tg + s.merge.quantum) := by
  simp [State.formable, h]

/-- A channel that counts in the safe time and is known only below Tg + Q holds the next group back. -/
theorem formable_eq_false_of_known_lt {s : State} {c : Chan} {tg : Nat} (hm : c ∈ s.front.chans) (hc : c.counts = true)
    (ht : s.nextTg = some tg) (hk : c.known < ((tg + s.merge.quantum : Nat) : Int)) : s.formable = false := by
  rw [formable_of_nextTg_some ht, safeFrom_eq_false hm hc hk]

/-! ## Which channels block, and when the lane is blocked (R73) -/

theorem blockingChan_iff (s : State) (c : Chan) : s.blockingChan c = true ↔
    c.calc = .empty ∧ (s.nextTg = none ∨ ∃ tg, s.nextTg = some tg ∧ c.known < ((tg + s.merge.quantum : Nat) : Int)) := by
  cases h : s.nextTg <;> simp [State.blockingChan, h]

theorem blockingChan_of_not_empty {s : State} {c : Chan} (h : c.calc ≠ .empty) : s.blockingChan c = false :=
  Bool.eq_false_iff.2 fun hb => h ((blockingChan_iff s c).1 hb).1

theorem running_iff (s : State) : s.running = true ↔ s.lane.lane = .running ∨ s.lane.lane = .stepping := by
  simp [State.running]

theorem blocked_iff (s : State) : s.blocked = true ↔
    (s.lane.lane = .running ∨ s.lane.lane = .stepping) ∧ (s.commit.fly = none ∧ s.stager.late = []) ∧
    s.formable = false ∧ ∃ c ∈ s.front.chans, s.blockingChan c = true := by
  simp [State.blocked, running_iff, and_assoc]

theorem blocked_of_none_blocking {s : State} (h : ∀ d ∈ s.front.chans, s.blockingChan d = false) : s.blocked = false := by
  refine Bool.eq_false_iff.2 fun hb => ?_
  obtain ⟨_, _, _, d, hm, hd⟩ := (blocked_iff s).1 hb
  simp [h d hm] at hd

/-- The timed items go by F, the channels and the dwell table, so that the next group time does not see the lane state. -/
theorem nextTg_updLane_lane (s : State) (l : LaneState) : (s.updLane fun t => { t with lane := l }).nextTg = s.nextTg := rfl

theorem blockingChan_updLane_lane (s : State) (c : Chan) (l : LaneState) :
    (s.updLane fun t => { t with lane := l }).blockingChan c = s.blockingChan c := by
  rw [Bool.eq_iff_iff, blockingChan_iff, blockingChan_iff, nextTg_updLane_lane]
  rfl

/-- Settles O22: each clause is a lemma above; a lane without a next group is one whose next group is not formable. -/
theorem blockingChannels : Obligations.BlockingChannels := by
  unfold Obligations.BlockingChannels
  refine ⟨blockingChan_iff, fun s c h => ?notEmpty, fun s => ?blocked, fun s c tg hm hf ht hk => ?fetching,
    blockingChan_updLane_lane⟩
  case notEmpty =>
    refine blockingChan_of_not_empty fun he => ?_
    simp [he] at h
  case blocked =>
    rw [blocked_iff, or_iff_left_of_imp formable_of_nextTg_none]
  case fetching =>
    have hc : c.counts = true := by simp [Chan.counts, hf]
    exact ⟨formable_eq_false_of_known_lt hm hc ht hk, blocked_of_none_blocking⟩

end Sys2Proof.Machine
end

/-! PROOFS. A command's judgement by the lane state (R179, R180), and DROP_MARK (R128). -/

namespace Sys2Proof.Machine

/-! ## A command acts, or is refused, by the lane state (R180) -/

theorem runCommand_taken {code : Nat} {s : State} {d : List Byte} (act : List Byte → State → State)
    (hd : s.command code = some d) (ht : taken code s.lane.lane = true) :
    runCommand code act s = .next (closeEvent (act d s)) := by
  simp only [runCommand, hd, ht, if_true]

theorem runCommand_refused {code : Nat} {s : State} {d : List Byte} (act : List Byte → State → State)
    (hd : s.command code = some d) (ht : taken code s.lane.lane = false) :
    runCommand code act s = .next (closeEvent (complete resRefusedState [] s)) := by
  simp only [runCommand, hd, ht, Bool.false_eq_true, if_false]

/-! ## An answer leaves every block but the memory path, the slots and the status block -/

theorem answers_closeEvent_complete (res : Nat) (data : List Byte) (s : State) :
    Answers s (closeEvent (complete res data s)) res data := (answers_complete res data s).closeEvent

theorem keepsHistory_closeEvent_complete (res : Nat) (data : List Byte) (s : State) :
    KeepsHistory s (closeEvent (complete res data s)) := by
  simp [KeepsHistory]

theorem keepsImage_closeEvent_complete (res : Nat) (data : List Byte) (s : State) :
    KeepsImage s (closeEvent (complete res data s)) := by
  simp [KeepsImage]

theorem keepsPins_closeEvent_complete (res : Nat) (data : List Byte) (s : State) :
    KeepsPins s (closeEvent (complete res data s)) := by
  simp [KeepsPins]

theorem keepsPath_closeEvent_complete (res : Nat) (data : List Byte) (s : State) :
    KeepsPath s (closeEvent (complete res data s)) :=
  (keepsPath_complete ..).trans (keepsPath_closeEvent _)

theorem keepsNotices_closeEvent_complete (res : Nat) (data : List Byte) (s : State) :
    KeepsNotices s (closeEvent (complete res data s)) :=
  (keepsNotices_complete ..).trans (keepsNotices_closeEvent _)

/-! ## The journal's part of DROP_MARK (R128, R138) -/

/-- The top mark goes, and a rewind in flight has one mark fewer of its d to remove. -/
def Journal.popMark (j : Journal) : Journal :=
  { j with marks := j.marks.dropLast, walk := j.walk.map fun w => { w with toRemove := w.toRemove - 1 } }

/-- Only the number of marks to remove changes in a walk: its end position and its target stay. -/
theorem Journal.popMark_walkTarget (j : Journal) :
    (j.popMark.walk.map fun w => (w.endPos, w.targetC)) = j.walk.map fun w => (w.endPos, w.targetC) := by
  simp only [popMark, Option.map_map, Function.comp_def]

theorem actDropMark_empty {s : State} (h : s.jrn.marks = []) : actDropMark s = complete resOutOfRange [] s := by
  simp [actDropMark, h]

theorem actDropMark_marked {s : State} (h : s.jrn.marks ≠ []) :
    actDropMark s = complete resDone (leBytes 1 (s.jrn.marks.length - 1)) (s.updJrn Journal.popMark) := by
  have hpop : (s.updJrn fun j => { j with marks := j.marks.dropLast }).updWalk
      (fun w => { w with toRemove := w.toRemove - 1 }) = s.updJrn Journal.popMark := rfl
  have hne : s.jrn.marks.isEmpty = false := List.isEmpty_eq_false_iff.2 h
  simp only [actDropMark, hne, Bool.false_eq_true, if_false, hpop, State.updJrn_jrn, Journal.popMark, List.length_dropLast]

theorem answers_actDropMark_marked {s : State} (h : s.jrn.marks ≠ []) :
    Answers s (actDropMark s) 1 (leBytes 1 (s.jrn.marks.length - 1)) := by
  rw [actDropMark_marked h]
  exact (answers_complete ..).congr ⟨rfl, rfl⟩

theorem actDropMark_marked_jrn {s : State} (h : s.jrn.marks ≠ []) : (actDropMark s).jrn = s.jrn.popMark := by
  simp [actDropMark_marked h]

theorem keepsNotices_actDropMark (s : State) : KeepsNotices s (actDropMark s) := by
  simp [KeepsNotices]

/-! ## DROP_MARK (R128, R180) -/

theorem taken_dropMark_iff (l : LaneState) : taken codeDropMark l = true ↔
    l = .stopped ∨ l = .running ∨ l = .stepping ∨ l = .holding ∨ l = .rewinding := by
  cases l <;> decide

theorem taken_dropMark_eq_false {l : LaneState} (h : l = .unconfigured ∨ l = .configuring ∨ l = .faulted) :
    taken codeDropMark l = false := by
  rcases h with rfl | rfl | rfl <;> rfl

theorem exec_dropMark_taken {s : State} {d : List Byte} (hd : s.command codeDropMark = some d)
    (ht : taken codeDropMark s.lane.lane = true) : exec .dropMark s = .next (closeEvent (actDropMark s)) :=
  runCommand_taken (fun _ u => actDropMark u) hd ht

theorem exec_dropMark_refused {s : State} {d : List Byte} (hd : s.command codeDropMark = some d)
    (ht : taken codeDropMark s.lane.lane = false) :
    exec .dropMark s = .next (closeEvent (complete resRefusedState [] s)) :=
  runCommand_refused (fun _ u => actDropMark u) hd ht

/-- Settles O48: a taken DROP_MARK changes the journal by `Journal.popMark` alone, or by nothing where no mark is held; a refused
one is only answered. -/
theorem markDropped : Obligations.MarkDropped := by
  unfold Obligations.MarkDropped
  refine fun s d hd => ⟨fun hl => ?taken, fun hl => ?refused⟩
  case taken =>
    refine ⟨_, exec_dropMark_taken hd ((taken_dropMark_iff _).2 hl), fun hm => ?empty, fun hm => ?marked, ?keeps⟩
    case empty =>
      rw [actDropMark_empty hm]
      obtain ⟨_, _, _, _, hjrn⟩ := keepsHistory_closeEvent_complete resOutOfRange [] s
      exact ⟨answers_closeEvent_complete .., hjrn⟩
    case marked =>
      have hjrn : (closeEvent (actDropMark s)).jrn = s.jrn.popMark := by simp [actDropMark_marked_jrn hm]
      rw [hjrn]
      exact ⟨(answers_actDropMark_marked hm).closeEvent, rfl, rfl, rfl, s.jrn.popMark_walkTarget⟩
    case keeps =>
      have hpath := (keepsPath_actDropMark s).trans (keepsPath_closeEvent _)
      have hntc := (keepsNotices_actDropMark s).trans (keepsNotices_closeEvent _)
      simp [KeepsImage, KeepsPins, hpath, hntc]
  case refused =>
    exact ⟨_, exec_dropMark_refused hd (taken_dropMark_eq_false hl), answers_closeEvent_complete ..,
      keepsHistory_closeEvent_complete .., by simp, keepsImage_closeEvent_complete .., keepsPins_closeEvent_complete ..,
      keepsPath_closeEvent_complete .., keepsNotices_closeEvent_complete ..⟩

end Sys2Proof.Machine

/-! PROOFS. RELEASE_OVERRIDE: what leaves the Override Table, and what a point whose entry has left presents (R153, R180, R190). -/

namespace Sys2Proof.Machine

/-! ## A range of points (R190) -/

theorem badRange_eq_none_iff (first count limit : Nat) :
    badRange first count limit = none ↔ 0 < count ∧ count ≤ 16384 ∧ first + count ≤ limit := by
  unfold badRange
  split
  · simp only [reduceCtorEq, false_iff]
    omega
  · simp only [ite_eq_right_iff, reduceCtorEq, imp_false]
    omega

/-- A range that is none has an offending parameter. -/
theorem exists_badRange_eq_some {first count limit : Nat} (h : count = 0 ∨ 16384 < count ∨ limit < first + count) :
    ∃ i, badRange first count limit = some i := by
  rw [← Option.ne_none_iff_exists', Ne, badRange_eq_none_iff]
  omega

theorem OvrEntry.inRange_iff (first count : Nat) (e : OvrEntry) :
    e.inRange first count = true ↔ first ≤ e.point.toNat ∧ e.point.toNat < first + count := by
  simp [OvrEntry.inRange]

/-! ## The Override Table without the entries of a range (R153) -/

/-- The entries that stay when a range is released. -/
def ovrOutside (first count : Nat) (o : List OvrEntry) : List OvrEntry := o.filter fun e => !e.inRange first count

theorem mem_ovrOutside {first count : Nat} {o : List OvrEntry} {e : OvrEntry} :
    e ∈ ovrOutside first count o ↔ e ∈ o ∧ ¬(first ≤ e.point.toNat ∧ e.point.toNat < first + count) := by
  rw [ovrOutside, List.mem_filter, ← OvrEntry.inRange_iff, Bool.not_eq_true, Bool.not_eq_true']

/-- The entries of the range and those that stay make up the table. -/
theorem length_filter_inRange (first count : Nat) (o : List OvrEntry) :
    (o.filter (OvrEntry.inRange first count)).length = o.length - (ovrOutside first count o).length := by
  have h : o.length = (o.filter (OvrEntry.inRange first count)).length + (ovrOutside first count o).length := by
    simpa [ovrOutside, List.countP_eq_length_filter] using
      List.length_eq_countP_add_countP (OvrEntry.inRange first count) (l := o)
  omega

theorem findOvr_ovrOutside {first count : Nat} {p : PointNo} (o : List OvrEntry) (hlo : first ≤ p.toNat)
    (hhi : p.toNat < first + count) : findOvr (ovrOutside first count o) p = none := by
  refine List.find?_eq_none.2 fun e he hp => ?_
  obtain rfl : e.point = p := beq_iff_eq.1 hp
  exact (mem_ovrOutside.1 he).2 ⟨hlo, hhi⟩

/-- Where no entry is for a point, it presents by its directory entry alone (R18). -/
theorem present_of_findOvr_none {s t : State} {p : PointNo} (ht : findOvr t.ovr p = none) (hdir : t.dir = s.dir)
    (w : PointWord) : t.present p w = { s with ovr := [] }.present p w := by
  have hs : findOvr { s with ovr := [] }.ovr p = none := rfl
  have hat : t.dirAt p = { s with ovr := [] }.dirAt p := by simp only [State.dirAt, hdir]
  simp only [State.present, ht, hs, hat]

/-! ## The command's action (R153) -/

theorem actReleaseOverride_badRange {s : State} {d : List Byte} {i : Nat}
    (h : badRange (field d 8 2) (field d 10 2) s.points = some i) : actReleaseOverride d s = badParam i s := by
  simp only [actReleaseOverride, h]

theorem actReleaseOverride_range {s : State} {d : List Byte}
    (h : badRange (field d 8 2) (field d 10 2) s.points = none) :
    actReleaseOverride d s =
      complete resDone (leBytes 2 (s.ovr.length - (ovrOutside (field d 8 2) (field d 10 2) s.ovr).length))
        (s.setOvr (ovrOutside (field d 8 2) (field d 10 2) s.ovr)) := by
  simp only [actReleaseOverride, h, length_filter_inRange]
  rfl

theorem actReleaseOverride_range_ovr {s : State} {d : List Byte}
    (h : badRange (field d 8 2) (field d 10 2) s.points = none) :
    (actReleaseOverride d s).ovr = ovrOutside (field d 8 2) (field d 10 2) s.ovr := by
  simp [actReleaseOverride_range h]

theorem answers_actReleaseOverride_range {s : State} {d : List Byte}
    (h : badRange (field d 8 2) (field d 10 2) s.points = none) :
    Answers s (actReleaseOverride d s) 1
      (leBytes 2 (s.ovr.length - (ovrOutside (field d 8 2) (field d 10 2) s.ovr).length)) := by
  rw [actReleaseOverride_range h]
  exact (answers_complete ..).congr ⟨rfl, rfl⟩

theorem keepsNotices_actReleaseOverride (d : List Byte) (s : State) : KeepsNotices s (actReleaseOverride d s) := by
  simp [KeepsNotices]

/-! ## RELEASE_OVERRIDE (R153, R180) -/

/-- RELEASE_OVERRIDE and DROP_MARK are taken in the same lane states (R180). -/
theorem taken_releaseOverride (l : LaneState) : taken codeReleaseOverride l = taken codeDropMark l := by
  cases l <;> rfl

theorem exec_releaseOverride_taken {s : State} {d : List Byte} (hd : s.command codeReleaseOverride = some d)
    (ht : taken codeReleaseOverride s.lane.lane = true) :
    exec .releaseOverride s = .next (closeEvent (actReleaseOverride d s)) :=
  runCommand_taken actReleaseOverride hd ht

theorem exec_releaseOverride_refused {s : State} {d : List Byte} (hd : s.command codeReleaseOverride = some d)
    (ht : taken codeReleaseOverride s.lane.lane = false) :
    exec .releaseOverride s = .next (closeEvent (complete resRefusedState [] s)) :=
  runCommand_refused actReleaseOverride hd ht

/-- Settles O54: a taken RELEASE_OVERRIDE leaves the table as `ovrOutside`, or as it was where its range is none; a refused one
is only answered. -/
theorem overridesReleased : Obligations.OverridesReleased := by
  unfold Obligations.OverridesReleased
  rintro s d _ _ hd rfl rfl
  refine ⟨fun hl => ?taken, fun hl => ?refused⟩
  case taken =>
    have ht : taken codeReleaseOverride s.lane.lane = true :=
      (taken_releaseOverride _).trans ((taken_dropMark_iff _).2 hl)
    refine ⟨_, exec_releaseOverride_taken hd ht, fun hbad => ?badRange, fun hle hpos hmax => ?range, ?keeps⟩
    case badRange =>
      obtain ⟨i, hi⟩ := exists_badRange_eq_some hbad
      rw [actReleaseOverride_badRange hi]
      exact ⟨⟨_, answers_closeEvent_complete ..⟩, by simp⟩
    case range =>
      have hr := (badRange_eq_none_iff _ _ _).2 ⟨hpos, hmax, hle⟩
      have hovr : (closeEvent (actReleaseOverride d s)).ovr = ovrOutside (field d 8 2) (field d 10 2) s.ovr := by
        simp [actReleaseOverride_range_ovr hr]
      refine ⟨fun e => by rw [hovr]; exact mem_ovrOutside, ?answers, fun p hlo hhi => ?presented, rfl⟩
      case answers =>
        rw [hovr]
        exact (answers_actReleaseOverride_range hr).closeEvent
      case presented =>
        have hnone : findOvr (closeEvent (actReleaseOverride d s)).ovr p = none := by
          rw [hovr]
          exact findOvr_ovrOutside s.ovr hlo hhi
        exact ⟨hnone, present_of_findOvr_none hnone (by simp)⟩
    case keeps =>
      have hpath := (keepsPath_actReleaseOverride d s).trans (keepsPath_closeEvent _)
      have hntc := (keepsNotices_actReleaseOverride d s).trans (keepsNotices_closeEvent _)
      simp [KeepsHistory, KeepsPins, hpath, hntc]
  case refused =>
    have ht : taken codeReleaseOverride s.lane.lane = false :=
      (taken_releaseOverride _).trans (taken_dropMark_eq_false hl)
    exact ⟨_, exec_releaseOverride_refused hd ht, answers_closeEvent_complete .., keepsImage_closeEvent_complete ..,
      keepsHistory_closeEvent_complete .., by simp, keepsPins_closeEvent_complete .., keepsPath_closeEvent_complete ..,
      keepsNotices_closeEvent_complete ..⟩

end Sys2Proof.Machine
